-- ==== Sys2Proof/Word.lean ====
section
/-! DEFINITION. The data types every other file is written in: bits in transmission order, natural
numbers, caller identities (spec/40_bitvector.md R110, spec/00_scope.md R11, R12). The block has no
machine word of fixed width: its numbers are unbounded naturals and its only packed data are
BitVectors. -/

namespace Sys2Proof

/-- A BitVector (R110): a finite sequence of bits. The head of the list is index 0, the bit that is
transmitted or received first (R12, R57). -/
abbrev Bits := List Bool

/-- The identity of a caller of the command port (R25, R37). Nothing is computed from it. -/
abbrev Caller := Nat

/-- `bit(n, i)` of R11: bit `i` of the natural `n`, bit 0 the least significant. -/
def bitOf (n i : Nat) : Bool := n / 2 ^ i % 2 == 1

end Sys2Proof
end

