-- ==== Sys2Proof/Syntax.lean ====
section
/-! DEFINITION. The instructions: one constructor of `Instr` per row of spec/opcode_table.json, the
port commands as callers present them, and the environment's moves (the input side of the ports of
spec/10_state.md R37). -/

namespace Sys2Proof

/-- A write word as a caller may give it (R101 (c)): a plain natural, or an already encoded vector.
The vector form is kept until validation, which admits it only at length `DW` (D10, R203). -/
inductive WriteWord where
  | uint (n : Nat)
  | vec (v : Bits)
deriving DecidableEq, Repr

/-- A command of the command port (R37, R101). Operands are unsigned (D30). -/
inductive Command where
  | initCmd
  | sizeqCmd
  | readCmd (address count : Nat)
  | writeCmd (address : Nat) (words : List WriteWord)
deriving DecidableEq, Repr

/-- `read(address)` is `READ(address, 1)` (R101 (a)). -/
def Command.readOne (address : Nat) : Command := .readCmd address 1

/-- The six BitVector primitives (R111 to R117) with their operands. -/
inductive Primitive where
  | fromUnsigned (value : Int) (width : Nat)
  | toUnsigned (v : Bits)
  | length (v : Bits)
  | concat (a b : Bits)
  | slice (v : Bits) (start stop : Nat)
  | eq (a b : Bits)
deriving DecidableEq, Repr

/-- One constructor per row of spec/opcode_table.json.

The four wire opcodes are frames: `nop`, `size`, `writeFrame`, `readFrame` (R90 to R94, R220). The four
port commands are `initCmd`, `sizeqCmd`, `readCmd`, `writeCmd` (R101). The six primitives carry the
prefix `bv` (R111 to R117). -/
inductive Instr where
  | nop
  | size
  | writeFrame (address : Nat) (words : List Nat)
  | readFrame (address : Nat)
  | initCmd
  | sizeqCmd
  | readCmd (address count : Nat)
  | writeCmd (address : Nat) (words : List WriteWord)
  | bvFromUnsigned (value : Int) (width : Nat)
  | bvToUnsigned (v : Bits)
  | bvLength (v : Bits)
  | bvConcat (a b : Bits)
  | bvSlice (v : Bits) (start stop : Nat)
  | bvEq (a b : Bits)
deriving DecidableEq, Repr

/-- The instruction a presented command is. -/
def Command.toInstr : Command → Instr
  | .initCmd => .initCmd
  | .sizeqCmd => .sizeqCmd
  | .readCmd a n => .readCmd a n
  | .writeCmd a ws => .writeCmd a ws

/-- The instruction a primitive is. -/
def Primitive.toInstr : Primitive → Instr
  | .fromUnsigned v w => .bvFromUnsigned v w
  | .toUnsigned v => .bvToUnsigned v
  | .length v => .bvLength v
  | .concat a b => .bvConcat a b
  | .slice v s e => .bvSlice v s e
  | .eq a b => .bvEq a b

/-- The inputs the block may sample in one step of its own (R37): `rxBit` at an RXBIT step (R135),
`cancelReq` at a between-chunks point (R240), `pick` the free choice of GRANT (R270). Every other step
ignores them. -/
structure Inputs where
  rxBit : Bool := false
  cancelReq : Bool := false
  pick : Nat := 0
deriving DecidableEq, Repr, Inhabited

/-- One move of the environment (R146, R259, R271, R290). Which move comes next is free.

`linkFail` and `linkAbort` carry the draw `j` of R70 (c): how many words of a cut WRITE frame the
reference peer has applied; the oracle peer ignores it. -/
inductive Move where
  | tick (inputs : Inputs)
  | call (caller : Caller) (command : Command)
  | linkFail (appliedWords : Nat)
  | linkAbort (appliedWords : Nat)
  | reset
  | silence
  | evaluate (primitive : Primitive)
deriving DecidableEq, Repr, Inhabited

end Sys2Proof
end

