-- ==== Sys2Proof/Config.lean ====
section
/-! DEFINITION. The parameters of one instance (spec/00_scope.md R7, R8, spec/10_state.md R20, R24) and
the two free values of the model, which are opaque: nothing in Lean can evaluate them. The parameters
are a record held in `State`, so that a statement about every state is a statement about every
configuration (R81: "state its claims for arbitrary distinct `OP_*`"). -/

namespace Sys2Proof

/-- `BIT_ORDER` (R8, R56): the single admitted value. -/
inductive BitOrder where
  | lsbFirst
deriving DecidableEq, Repr

/-- The configuration record of R8. Constant for the life of the instance: no step writes it. -/
structure Config where
  /-- `OP_NOP` -/
  opNop : BitVec 2
  /-- `OP_READ` -/
  opRead : BitVec 2
  /-- `OP_WRITE` -/
  opWrite : BitVec 2
  /-- `OP_SIZE` -/
  opSize : BitVec 2
  /-- `SIZE_RESP_BITS`, written `T` in the rules -/
  sizeRespBits : Nat
  /-- `CHUNK_WORDS`; `none` is infinity -/
  chunkWords : Option Nat
  /-- `BIT_ORDER`: it has one value, so no definition branches on it -/
  bitOrder : BitOrder
  /-- `MODULE_ID`, opaque: handed to the transport with each exchange and never inspected (R24) -/
  moduleId : Nat
deriving DecidableEq, Repr

/-- `FIELD_BITS` (R8). -/
def Config.fieldBits (c : Config) : Nat := (c.sizeRespBits - 1) / 2

/-- The constraints of R8: pairwise distinct opcodes, `SIZE_RESP_BITS` odd and at least 3,
`CHUNK_WORDS` positive. -/
def Config.legal (c : Config) : Bool :=
  [c.opNop, c.opRead, c.opWrite, c.opSize].Nodup
    && c.sizeRespBits % 2 == 1 && 3 ≤ c.sizeRespBits
    && c.chunkWords != some 0

/-- The values reset is stated with (R8, R81): the suggested opcodes (PRESUMED, notes/assumptions/1),
`SIZE_RESP_BITS = 25` (DESIGN CHOICE, 2), no chunking (DESIGN CHOICE, 3), module 0 (DESIGN CHOICE, 4). -/
def Config.suggested : Config where
  opNop := 0
  opRead := 3
  opWrite := 2
  opSize := 1
  sizeRespBits := 25
  chunkWords := none
  bitOrder := .lsbFirst
  moduleId := 0

/-- The widths at which a word of the opcode table is laid out as a frame when no widths have been
discovered yet (the address and data width of the source's own example; notes/assumptions/12).
Nothing else uses them. -/
def Config.tableWidths : Nat × Nat := (8, 8)

/-- FREE VALUE (notes/assumptions/10): the environment's next move when the script in State has run
out, one draw per value of the counter `draws` (R17 `draw`, R146). -/
opaque Config.drawMove : Nat → Move

/-- FREE VALUE (notes/assumptions/7): the initial content of each cell of the reference peer's memory
(R42, R66: "every cell is a draw at the start of a run"), before reduction to the peer's word width. -/
opaque Config.initialWord : Nat → Nat

end Sys2Proof
end

