-- ==== Sys2Proof/Machine/BitVector.lean ====
section
/-! DEFINITION. The BitVector primitives (spec/40_bitvector.md R110 to R117) and the whole-response cut
of spec/41_exchange.md R143. Bit placement is least significant first (spec/20_memory.md R56, D3). A
contract violation is `none` here and a refusal where an instruction runs into it (R121). -/

namespace Sys2Proof.Machine

/-- The low `width` bits of a natural, index 0 the least significant (R56). `fromUnsigned` uses it only
on values that fit, so that nothing is ever truncated (R113, R119). -/
def natToBits : Nat → Nat → Bits
  | _, 0 => []
  | x, w + 1 => (x % 2 == 1) :: natToBits (x / 2) w

/-- `from_unsigned(value, width)` (R113); `none` is the domain error. -/
def fromUnsigned (value : Int) (width : Nat) : Option Bits :=
  if value < 0 ∨ (2 : Int) ^ width ≤ value then none else some (natToBits value.toNat width)

/-- `to_unsigned(v)` (R114). -/
def toUnsigned : Bits → Nat
  | [] => 0
  | b :: v => b.toNat + 2 * toUnsigned v

/-- `length(v)` (R111). -/
def bitLength (v : Bits) : Nat := v.length

/-- `eq(a, b)` (R112). -/
def bitEq (a b : Bits) : Bool := a == b

/-- `concat(a, b)` (R116). -/
def bitConcat (a b : Bits) : Bits := a ++ b

/-- `slice(v, start, end)` (R117); `none` is the out-of-bounds contract violation. -/
def bitSlice (v : Bits) (start stop : Nat) : Option Bits :=
  if start ≤ stop ∧ stop ≤ v.length then some ((v.drop start).take (stop - start)) else none

/-- `strip(r, skip)` (R143). -/
def strip (r : Bits) (skip : Nat) : Option Bits := bitSlice r skip r.length

/-- The words `j .. j + m - 1` of `partition(d, wlen, ·)` (R143). -/
def partitionFrom (d : Bits) (wlen : Nat) : Nat → Nat → Option (List Nat)
  | _, 0 => some []
  | j, m + 1 =>
    match bitSlice d (j * wlen) ((j + 1) * wlen), partitionFrom d wlen (j + 1) m with
    | some w, some rest => some (toUnsigned w :: rest)
    | _, _ => none

/-- `words(r, skip, wlen, m)` (R143): drop the first `skip` bits, cut the rest into `m` words of `wlen`
bits in transmission order. -/
def responseWords (r : Bits) (skip wlen m : Nat) : Option (List Nat) :=
  match strip r skip with
  | some d => partitionFrom d wlen 0 m
  | none => none

/-- The first two bits of a frame with opcode `op` (R80). -/
def opcodeBits (op : BitVec 2) : Bits := natToBits op.toNat 2

end Sys2Proof.Machine
end

