-- ==== Sys2Proof/WellFormed.lean ====
section
/-! DEFINITION. Which instructions are well formed: the operands of a frame fit the widths they are
encoded at (spec/30_encoding.md R93, R94, R99 (c)), a primitive's operands keep its contract
(spec/40_bitvector.md R113, R117). Port commands are always well formed: a bad operand of theirs is a
typed failure of the command, not an ill-formed command (spec/60_exceptions.md R252). -/

namespace Sys2Proof

/-- Well-formedness at address width `aw` and data width `dw`. -/
def Instr.wellFormed (aw dw : Nat) : Instr → Bool
  | .nop => true
  | .size => true
  | .writeFrame a ws => decide (a < 2 ^ aw) && decide (1 ≤ dw) && !ws.isEmpty && ws.all (· < 2 ^ dw)
  | .readFrame a => decide (a < 2 ^ aw)
  | .initCmd => true
  | .sizeqCmd => true
  | .readCmd _ _ => true
  | .writeCmd _ _ => true
  | .bvFromUnsigned v w => decide (0 ≤ v) && decide (v < 2 ^ w)
  | .bvToUnsigned _ => true
  | .bvLength _ => true
  | .bvConcat _ _ => true
  | .bvSlice v s e => decide (s ≤ e) && decide (e ≤ v.length)
  | .bvEq _ _ => true

/-- The rows with a bit encoding: the wire opcodes (R103). -/
def Instr.isFrame : Instr → Bool
  | .nop | .size | .writeFrame _ _ | .readFrame _ => true
  | .initCmd | .sizeqCmd | .readCmd _ _ | .writeCmd _ _ => false
  | .bvFromUnsigned _ _ | .bvToUnsigned _ | .bvLength _ | .bvConcat _ _ | .bvSlice _ _ _ | .bvEq _ _ => false

end Sys2Proof
end

