-- ==== Sys2Proof/Decode.lean ====
section
/-! DEFINITION. Frames: the decoder of spec/30_encoding.md R103 (the peer's side), total on any bits and
rejecting by name, and the encoder (the block's command encoder) written from the layouts of R91, R92,
R94. Only the wire opcodes have bits; the other rows of the table are selected by name. -/

namespace Sys2Proof

open Machine

/-- Why bits are no frame (R99 (c): frames the block can never produce). -/
inductive FrameError where
  /-- fewer than two bits: no opcode (R80) -/
  | noOpcode
  /-- bits after the opcode of a SIZE frame (R92) -/
  | trailingAfterSize
  /-- a READ or WRITE frame where no widths are known, so that its layout is not defined (R98) -/
  | widthsUnknown
  /-- an address field that is not `AW` bits (R91, R94) -/
  | addressLength
  /-- a WRITE frame with no data word (R94: n at least 1) -/
  | noDataWord
  /-- a WRITE frame whose data part is not a multiple of `DW` bits (R94) -/
  | raggedData
  /-- an opcode value no parameter names; impossible in a legal configuration (R81) -/
  | unassignedOpcode
deriving DecidableEq, Repr

/-- Cut `m` words of `dw` bits off the front of the data part of a WRITE frame (R94, R103). -/
def dataWords (dw : Nat) : Nat → Bits → List Nat
  | 0, _ => []
  | m + 1, d => toUnsigned (d.take dw) :: dataWords dw m (d.drop dw)

/-- The data part of a WRITE frame: one or more whole words (R94, R99 (c)). -/
def decodeData (dw : Nat) (d : Bits) : Except FrameError (List Nat) :=
  if d = [] then .error .noDataWord
  else if dw = 0 ∨ d.length % dw ≠ 0 then .error .raggedData
  else .ok (dataWords dw (d.length / dw) d)

/-- What follows the opcode of a SIZE frame: nothing (R92). -/
def decodeSize (rest : Bits) : Except FrameError Instr :=
  if rest = [] then .ok .size else .error .trailingAfterSize

/-- What follows the opcode of a READ frame: the address and nothing else (R91). -/
def decodeRead (widths : Option (Nat × Nat)) (rest : Bits) : Except FrameError Instr :=
  match widths with
  | none => .error .widthsUnknown
  | some (aw, _) =>
    if rest.length = aw then .ok (.readFrame (toUnsigned rest)) else .error .addressLength

/-- What follows the opcode of a WRITE frame: the address and the data words (R94). -/
def decodeWrite (widths : Option (Nat × Nat)) (rest : Bits) : Except FrameError Instr :=
  match widths with
  | none => .error .widthsUnknown
  | some (aw, dw) =>
    if rest.length < aw then .error .addressLength
    else
      match decodeData dw (rest.drop aw) with
      | .error e => .error e
      | .ok ws => .ok (.writeFrame (toUnsigned (rest.take aw)) ws)

/-- The rest of a frame by the value of its opcode. A NOP frame has no defined continuation, so whatever
follows its opcode is ignored (R103, R222). -/
def decodeBody (c : Config) (widths : Option (Nat × Nat)) (op : Nat) (rest : Bits) :
    Except FrameError Instr :=
  if op = c.opSize.toNat then decodeSize rest
  else if op = c.opRead.toNat then decodeRead widths rest
  else if op = c.opWrite.toNat then decodeWrite widths rest
  else if op = c.opNop.toNat then .ok .nop
  else .error .unassignedOpcode

/-- The decoder of R103: the opcode is `b0 + 2 * b1`. `widths` are the address and data width the layout
depends on (R98), if they are known. -/
def decodeFrame (c : Config) (widths : Option (Nat × Nat)) (f : Bits) : Except FrameError Instr :=
  match f with
  | b0 :: b1 :: rest => decodeBody c widths (toUnsigned [b0, b1]) rest
  | _ => .error .noOpcode

/-- The concatenation of the data words at `dw` bits each (R94); `none` when one does not fit. -/
def encodeWords (dw : Nat) : List Nat → Option Bits
  | [] => some []
  | w :: ws =>
    match fromUnsigned w dw, encodeWords dw ws with
    | some b, some rest => some (bitConcat b rest)
    | _, _ => none

/-- Opcode and address, the common front of READ and WRITE frames (R91, R94). -/
def encodeHead (op : BitVec 2) (aw a : Nat) : Option Bits :=
  match fromUnsigned op.toNat 2, fromUnsigned a aw with
  | some o, some b => some (bitConcat o b)
  | _, _ => none

/-- The command encoder: the frame of a wire instruction (R90 to R94, R100: operands are assembled by
`from_unsigned` only, never truncated). `none` when an operand does not fit or the row has no bits.

A NOP frame has no format in the spec (R90 lists none, R220): that it is its 2-bit opcode and nothing more is
the model's (DESIGN CHOICE, notes/assumptions/29). -/
def encode (c : Config) (aw dw : Nat) : Instr → Option Bits
  | .nop => fromUnsigned c.opNop.toNat 2
  | .size => fromUnsigned c.opSize.toNat 2
  | .readFrame a => encodeHead c.opRead aw a
  | .writeFrame a ws =>
    match encodeHead c.opWrite aw a, encodeWords dw ws with
    | some h, some d => some (bitConcat h d)
    | _, _ => none
  | .initCmd | .sizeqCmd | .readCmd _ _ | .writeCmd _ _ => none
  | .bvFromUnsigned _ _ | .bvToUnsigned _ | .bvLength _ | .bvConcat _ _ | .bvSlice _ _ _ | .bvEq _ _ => none

/-- The length of the frame whose opcode stands in bits 1..0 of a table word: NOP and SIZE 2 bits,
READ `2 + aw`, WRITE `2 + aw + dw` (one data word, the least R94 admits). The length of NOP is the model's
(DESIGN CHOICE, notes/assumptions/29). -/
def tableFrameLength (c : Config) (aw dw w : Nat) : Nat :=
  if w % 4 = c.opRead.toNat then 2 + aw
  else if w % 4 = c.opWrite.toNat then 2 + aw + dw
  else 2

/-- A table word as a frame: bit `i` of the word is frame index `i`; the bits above `nbits` are 0. -/
def tableFrame (c : Config) (aw dw nbits w : Nat) : Bits :=
  natToBits (w % 2 ^ nbits) (tableFrameLength c aw dw (w % 2 ^ nbits))

/-- The instruction the decoder reads from a word of the opcode table, at the suggested configuration
and the widths of `Config.tableWidths` (notes/assumptions/12). A word of fewer than 2 bits holds no
opcode. -/
def decodeTableWord (nbits w : Nat) : Option Instr :=
  if nbits < 2 then none
  else
    let (aw, dw) := Config.tableWidths
    match decodeFrame Config.suggested (some (aw, dw)) (tableFrame Config.suggested aw dw nbits w) with
    | .ok i => some i
    | .error _ => none

end Sys2Proof
end

