-- ==== Sys2Proof/Machine/State.lean ====
section
/-! DEFINITION. The state of one framer instance, as plain data (spec/10_state.md), with the part of the
environment a deterministic step needs (the peer, the moves to come), the reasons a step can stop, and
the state after reset. Where the spec's reset value is "no value" (R42) the field is an `Option` and
`none` is that value; R23 forbids any default for `AW` and `DW`. -/

namespace Sys2Proof.Machine

/-- `LC` (R21, R22). -/
inductive Lifecycle where
  | uninitialized
  | ready
  | dead
deriving DecidableEq, Repr

/-- `PH` (R32). -/
inductive Phase where
  | idle
  | tx
  | rx
deriving DecidableEq, Repr

/-- `STATUS` (R26): `OK` or one of the five failure kinds of R250. -/
inductive Status where
  | ok
  | configurationError
  | notInitialized
  | outOfRange
  | cancelled
  | transportError
deriving DecidableEq, Repr

/-- `CMD_OP` (R27). -/
inductive CmdOp where
  | initCmd
  | sizeqCmd
  | readCmd
  | writeCmd
deriving DecidableEq, Repr

/-- The three outcomes of `send_rcv` (R130). -/
inductive XchgOutcome where
  | ok (response : Bits)
  | transportError
  | cancelled
deriving DecidableEq, Repr

/-- The data of a return (R37, `ret` port): nothing, the pair `(AW, DW)`, or the list `RQ`. -/
inductive RetData where
  | nothing
  | widths (aw dw : Nat)
  | words (ws : List Nat)
deriving DecidableEq, Repr

/-- The event history of R18. The caller of a `ret` event is `OWNER` at that moment. -/
inductive Event where
  | call (caller : Caller) (command : Command)
  | grant (caller : Caller)
  | xchg (payload : Bits) (resultBits : Nat)
  | xchgEnd (outcome : XchgOutcome)
  | progress (doneWords : Nat)
  | ret (caller : Option Caller) (status : Status) (data : RetData)
deriving DecidableEq, Repr

/-- The value of a BitVector primitive (R111 to R117). -/
inductive BvValue where
  | bits (v : Bits)
  | nat (n : Nat)
  | bool (b : Bool)
deriving DecidableEq, Repr

/-- The contents of the reference peer's memory `M` (R66) as (address, word) pairs with strictly rising
addresses. The unit is the word (R15, R51, R59: there are no bytes). An unlisted cell has not been
written and holds its initial draw (R42), `Config.initialWord`. -/
abbrev Memory := List (Nat × Nat)

/-- What stands behind the link (R20): the normative oracle peer (R146), or the reference peer with its
constants `PAW`, `PDW` and its memory (R66). -/
inductive Peer where
  | oracle
  | reference (paw pdw : Nat) (mem : Memory)
deriving DecidableEq, Repr

/-- The data registers of the command in progress (R27 to R30). -/
structure CommandRegs where
  /-- `CMD_OP` -/
  op : Option CmdOp
  /-- `CMD_ADDR` -/
  addr : Option Nat
  /-- `CMD_COUNT` -/
  count : Option Nat
  /-- `WQ` -/
  wq : List Nat
  /-- `RQ` -/
  rq : List Nat
  /-- `KI` -/
  ki : Nat
  /-- `DONE_WORDS` -/
  doneWords : Nat
deriving DecidableEq, Repr

/-- The exchange engine with its latency stage and partitioner (R32 to R36). -/
structure Engine where
  /-- `PH` -/
  ph : Phase
  /-- `TXBUF` -/
  txbuf : Bits
  /-- `TXI` -/
  txi : Nat
  /-- `RXN` -/
  rxn : Nat
  /-- `RXBUF` -/
  rxbuf : Bits
  /-- `SKIP` -/
  skip : Nat
  /-- `WLEN` -/
  wlen : Option Nat
  /-- `WACC` -/
  wacc : Bits
  /-- `XQ` -/
  xq : List Nat
  /-- What `send_rcv` handed back (R130) and the command has not yet acted on; `none` while an exchange
  runs and at a between-chunks point. The model's own register for the call-level return value. -/
  outcome : Option XchgOutcome
deriving DecidableEq, Repr

/-- The output ports (R37). `txBit` is the bit on the link, absent unless `PH = TX` (R223); each other
port shows its last event. -/
structure Ports where
  /-- `tx_bit` -/
  txBit : Option Bool
  /-- `xchg_start`: `MODULE_ID`, payload, number of response bits -/
  xchgStart : Option (Nat × Bits × Nat)
  /-- `progress` -/
  progress : Option Nat
  /-- `ret`: caller, status, data -/
  ret : Option (Option Caller × Status × RetData)
deriving DecidableEq, Repr

/-- The environment's side. `answer` holds the response bits the peer is committed to, `none` where the
bit is a draw; past its end every bit is a draw. `script` holds the moves to come and `draws` counts the
moves taken from `Config.drawMove` after it ran out. -/
structure Environment where
  peer : Peer
  answer : List (Option Bool)
  script : List Move
  draws : Nat
deriving DecidableEq, Repr

/-- One framer instance (R20) and its environment. -/
structure State where
  /-- the constants of the instance (R8, R24) -/
  cfg : Config
  /-- `LC` -/
  lc : Lifecycle
  /-- `AW` -/
  aw : Option Nat
  /-- `DW` -/
  dw : Option Nat
  /-- `BUSY` -/
  busy : Bool
  /-- `OWNER` -/
  owner : Option Caller
  /-- `PENDING`, listed in order of arrival; the order has no effect of its own (R273) -/
  pending : List (Caller × Command)
  /-- `STATUS` -/
  status : Option Status
  cmd : CommandRegs
  eng : Engine
  ports : Ports
  env : Environment
  /-- the event history (R18), oldest first -/
  history : List Event
  /-- the value of the last primitive evaluated; the model's own -/
  bvResult : Option BvValue
deriving DecidableEq, Repr

/-- Reasons the machine stops with a fault. Both are safe: the machine stops where no rule of the spec
is enabled, so nothing false of the hardware can be proved from the step. -/
inductive Fault where
  /-- Raised by a meaning or a sequencer step whose rule's condition is false: a port command that was
  not granted or whose exchange engine is not idle (R131, R132, R270), a frame whose transmission is not
  complete (R134), a sequencer step with no sub-transfer (R231, R240). No step of a state that meets the
  machine's invariant raises it. Safe. -/
  | notEnabled
  /-- Raised where `AW`, `DW`, `CMD_OP`, `CMD_ADDR` or `CMD_COUNT` is read while it holds no value (R23,
  R27; 93 U23: such a read "must `fault`, never see 0"). Safe. -/
  | noValue
deriving DecidableEq, Repr

/-- Refusals: the spec gives the situation no meaning (R16, R258). All are safe. -/
inductive Refusal where
  /-- An instruction without a meaning yet, raised only by `exec`'s arms. Safe. -/
  | notModelled (mnemonic : String)
  /-- `INITIALIZE` on a Ready or Dead instance, raised by its meaning (R163). Safe. -/
  | initializeNotUninitialized
  /-- `from_unsigned` out of its domain, raised by that primitive and by the command encoder, which never
  reaches it after validation (R113, R121). Safe. -/
  | domainError
  /-- `slice` out of bounds, raised by that primitive (R117, R121). Safe. -/
  | sliceOutOfBounds
  /-- The block asked to emit a frame whose opcode is `OP_NOP`, raised when an exchange is started (R221).
  Safe. -/
  | nopFrame
  /-- A reset while a command is in progress or pending, raised by the reset move (R291). Safe. -/
  | resetWhileBusy
  /-- A caller presents a second command before its first returned, raised by the call move (R274).
  Safe. -/
  | callerReentry
  /-- The reference peer receives, whole or cut, bits that are no frame; raised at the end of TX and by a
  link failure during TX. What a module does then is not in the source (R99 (c), 91 N15). Safe. -/
  | malformedFrame
deriving DecidableEq, Repr

/-- What a step, or a meaning, answers. -/
abbrev Result := Host.Outcome State Fault Refusal

/-- The next state of a result, if it has one. -/
def Result.state? : Result → Option State
  | .next s => some s
  | .fault _ => none
  | .refused _ => none

/-- The fault of a result, if it is one. -/
def Result.fault? : Result → Option Fault
  | .next _ => none
  | .fault f => some f
  | .refused _ => none

/-- The refusal of a result, if it is one. -/
def Result.refusal? : Result → Option Refusal
  | .next _ => none
  | .fault _ => none
  | .refused r => some r

/-- The command registers with no command in progress (R42). -/
def CommandRegs.clear : CommandRegs where
  op := none
  addr := none
  count := none
  wq := []
  rq := []
  ki := 0
  doneWords := 0

/-- The engine with nothing in flight (R42). -/
def Engine.clear : Engine where
  ph := .idle
  txbuf := []
  txi := 0
  rxn := 0
  rxbuf := []
  skip := 0
  wlen := none
  wacc := []
  xq := []
  outcome := none

/-- The output ports before any event. -/
def Ports.clear : Ports where
  txBit := none
  xchgStart := none
  progress := none
  ret := none

/-- A newly constructed instance of configuration `c` with environment `e` and history `h`: every
register at its value of R42. -/
def State.constructed (c : Config) (e : Environment) (h : List Event) : State where
  cfg := c
  lc := .uninitialized
  aw := none
  dw := none
  busy := false
  owner := none
  pending := []
  status := none
  cmd := CommandRegs.clear
  eng := Engine.clear
  ports := Ports.clear
  env := e
  history := h
  bvResult := none

/-- The machine right after reset (R42): the suggested configuration, the normative oracle peer, nothing
presented and no move scheduled. -/
def State.reset : State :=
  State.constructed Config.suggested { peer := .oracle, answer := [], script := [], draws := 0 } []

end Sys2Proof.Machine
end

