-- ==== Sys2Proof/Machine/Flags.lean ====
section
/-! DEFINITION. The block has no arithmetic flags, condition codes or predicates, and no command writes a
flag as a side effect (spec/10_state.md R39). Its status-like values are `LC`, `BUSY` and `STATUS`; this
file holds what the spec computes from them. -/

namespace Sys2Proof.Machine

/-- The 3-bit code of a status on the `STATUS` port (R251). No rule reads it. -/
def statusCode : Status → BitVec 3
  | .ok => 0
  | .configurationError => 1
  | .notInitialized => 2
  | .outOfRange => 3
  | .cancelled => 4
  | .transportError => 5

/-- The status a code stands for; 6 and 7 are unused and never produced (R251). -/
def statusOfCode (c : BitVec 3) : Option Status :=
  [Status.ok, .configurationError, .notInitialized, .outOfRange, .cancelled, .transportError][c.toNat]?

/-- The lifecycle check of `SIZEQ`, `READ` and `WRITE` (R255). -/
def isReady (s : State) : Bool := s.lc == .ready

/-- A command's rule runs after its grant and before its first exchange (R131, R161, R181, R201, R270):
`BUSY` is set, `PH = IDLE` and no exchange outcome waits. -/
def granted (s : State) : Bool := s.busy && s.eng.ph == .idle && s.eng.outcome.isNone

/-- The end of `TX` (R134): every bit of the frame has been transmitted. -/
def frameSent (s : State) : Bool := s.eng.ph == .tx && s.eng.txi == s.eng.txbuf.length

end Sys2Proof.Machine
end

