-- ==== Sys2Proof/Machine/Operands.lean ====
section
/-! DEFINITION. Operand forms of the port commands (spec/30_encoding.md R100, R101), their validation
(spec/43_read.md R183, spec/44_write.md R203) and the sub-transfer plan (spec/46_chunking_cancel.md
R231, R232). -/

namespace Sys2Proof.Machine

/-- The natural a write word stands for: a vector `v` stands for `uint(v)` (R101 (c)). -/
def wordValue : WriteWord → Nat
  | .uint n => n
  | .vec v => toUnsigned v

/-- Whether a write word fits `dw` bits: a natural below `2^dw`, a vector of exactly `dw` bits (R203, D10). -/
def wordFits (dw : Nat) : WriteWord → Bool
  | .uint n => decide (n < 2 ^ dw)
  | .vec v => v.length == dw

/-- Step 2 of READ (R183): the operands are in range. -/
def readInRange (aw address count : Nat) : Bool := decide (address < 2 ^ aw) && decide (1 ≤ count)

/-- Step 2 of WRITE (R203): the operands are in range, every word of the command included. -/
def writeInRange (aw dw address : Nat) (words : List WriteWord) : Bool :=
  decide (address < 2 ^ aw) && decide (1 ≤ words.length) && words.all (wordFits dw)

/-- `K`, the number of sub-transfers of `n` words at chunk size `c` (R231). -/
def chunkCount (c n : Nat) : Nat := (n + c - 1) / c

/-- `plan(a, n)` (R231): start address and word count of each sub-transfer; `none` is
`CHUNK_WORDS = ∞`. -/
def plan (chunkWords : Option Nat) (a n : Nat) : List (Nat × Nat) :=
  match chunkWords with
  | none => [(a, n)]
  | some c =>
    if n ≤ c then [(a, n)]
    else (List.range (chunkCount c n)).map fun k =>
      (a + k * c, if k + 1 < chunkCount c n then c else n - (chunkCount c n - 1) * c)

/-- Every sub-transfer's start address is encodable (R232). -/
def startsEncodable (aw : Nat) (p : List (Nat × Nat)) : Bool := p.all fun q => decide (q.1 < 2 ^ aw)

/-- The result of a READ as the caller sees it (R101 (b), D31): a single word when `count = 1`, otherwise
the ordered sequence. -/
inductive ReadResult where
  | single (w : Nat)
  | sequence (ws : List Nat)
deriving DecidableEq, Repr

/-- The syntax-level shape of the list the `ret` port carries. -/
def readResult : List Nat → ReadResult
  | [w] => .single w
  | ws => .sequence ws

end Sys2Proof.Machine
end

