-- ==== Sys2Proof/Machine/Ops.lean ====
section
/-! DEFINITION. The shared operations of the commands: the event history, taking a failure and returning
(spec/60_exceptions.md R262, R265, R272), the grant and its latch (R270), and starting an exchange
(spec/41_exchange.md R132, R140). -/

namespace Sys2Proof.Machine

/-- Append an event to the history (R18). -/
def record (e : Event) (s : State) : State := { s with history := s.history ++ [e] }

/-- `RELEASE` (R272) with the state changes R262 gives every status: `BUSY` and `OWNER` cleared, `PH`
idle, `STATUS` and the `ret` port written, `Return` recorded. The transient registers lose their meaning
and keep their content (notes/assumptions/13). -/
def release (st : Status) (d : RetData) (s : State) : State :=
  record (.ret s.owner st d)
    { s with
      busy := false
      owner := none
      status := some st
      eng := { s.eng with ph := .idle, outcome := none }
      ports := { s.ports with ret := some (s.owner, st, d) } }

/-- `raise <Kind>` (R16, R262): the command ends with the failure kind as its status and no data. There is
no handler, no saved context and no mode change here (R262); the one lifecycle change, to `Dead`, is
written by the rule that raises `ConfigurationError` (R167). -/
def raiseFailure (kind : Status) (s : State) : State := release kind .nothing s

/-- The latch of a granted command's operands (R270, R27, R28). `WQ` holds the naturals the write words
stand for. Operands a command does not have hold no value. -/
def latch (c : Command) (s : State) : State :=
  match c with
  | .initCmd => { s with cmd := { s.cmd with op := some .initCmd, addr := none, count := none, wq := [] } }
  | .sizeqCmd => { s with cmd := { s.cmd with op := some .sizeqCmd, addr := none, count := none, wq := [] } }
  | .readCmd a n =>
    { s with cmd := { s.cmd with op := some .readCmd, addr := some a, count := some n, wq := [] } }
  | .writeCmd a ws =>
    { s with
      cmd := { s.cmd with
        op := some .writeCmd, addr := some a, count := some ws.length, wq := ws.map wordValue } }

/-- `GRANT` (R270) of the pending command at index `i`: it leaves `PENDING`, `BUSY` is set, `OWNER` is its
caller, `Grant` is recorded. The operands are latched by the command's meaning, in the same step. -/
def grant (i : Nat) (c : Caller) (s : State) : State :=
  record (.grant c) { s with pending := s.pending.eraseIdx i, busy := true, owner := some c }

/-- The pending command GRANT picks on the free choice `pick` (R270: "any one"). -/
def pickPending (pick : Nat) (s : State) : Option (Nat × Caller × Command) :=
  match s.pending[pick % s.pending.length]? with
  | some (c, cmd) => some (pick % s.pending.length, c, cmd)
  | none => none

/-- The loading of an exchange by XSTART (R132, R140), its condition aside. -/
def loadExchange (p : Bits) (n skip : Nat) (wlen : Option Nat) (s : State) : State :=
  record (.xchg p n)
    { s with
      eng :=
        { ph := .tx, txbuf := p, txi := 0, rxn := n, rxbuf := [], skip := skip, wlen := wlen,
          wacc := [], xq := [], outcome := none }
      ports := { s.ports with xchgStart := some (s.cfg.moduleId, p, n) } }

/-- `XSTART(p, n, skip, wlen)` (R132, R140). Its condition is `PH = IDLE` and `BUSY = true` (R131); a
frame whose opcode is `OP_NOP` is never emitted but refused (R220, R221). -/
def xstart (p : Bits) (n skip : Nat) (wlen : Option Nat) (s : State) : Result :=
  if granted s then
    if p.take 2 = opcodeBits s.cfg.opNop then .refused .nopFrame
    else .next (loadExchange p n skip wlen s)
  else .fault .notEnabled

/-- Steps 2 and 3 of INITIALIZE (R161, R162): the F-SIZE frame, `SIZE_RESP_BITS` bits, one skip bit,
words of `FIELD_BITS` bits. -/
def startSize (s : State) : Result :=
  match encode s.cfg 0 0 .size with
  | some p => xstart p s.cfg.sizeRespBits 1 (some s.cfg.fieldBits) s
  | none => .refused .domainError

/-- Steps 5b and 5c of READ for the sub-transfer `q` (R185 to R187). -/
def startRead (aw dw : Nat) (q : Nat × Nat) (s : State) : Result :=
  match encode s.cfg aw dw (.readFrame q.1) with
  | some p => xstart p ((q.2 + 1) * dw) dw (some dw) s
  | none => .refused .domainError

/-- The words of the sub-transfer in progress: `n` words of `WQ` from word `DONE_WORDS` on (R201, R205). -/
def subWords (n : Nat) (s : State) : List Nat := (s.cmd.wq.drop s.cmd.doneWords).take n

/-- Steps 5b and 5c of WRITE for the sub-transfer `q` (R205, R206). -/
def startWrite (aw dw : Nat) (q : Nat × Nat) (s : State) : Result :=
  match encode s.cfg aw dw (.writeFrame q.1 (subWords q.2 s)) with
  | some p => xstart p 0 0 (some dw) s
  | none => .refused .domainError

/-- Step 4 of READ and WRITE, with the loop index at its first value (R181, R201). READ empties `RQ` there
(R181). For WRITE the spec writes `DONE_WORDS` only and does not say what `RQ` holds (R201, R29): that it is
emptied for WRITE too is the model's (DESIGN CHOICE, notes/assumptions/28). -/
def beginTransfer (s : State) : State :=
  { s with cmd := { s.cmd with rq := [], doneWords := 0, ki := 0 } }

end Sys2Proof.Machine
end

