-- ==== Sys2Proof/Machine/Port.lean ====
section
/-! DEFINITION. The port commands, from grant to their first exchange or their return
(spec/42_size_initialize.md R161, R170, spec/43_read.md R181, spec/44_write.md R201). The rest of a
command is the sequencer's (Machine/Sequencer.lean). Checks stand in the order of
spec/60_exceptions.md R257. -/

namespace Sys2Proof.Machine

/-- `INITIALIZE` (R161 steps 1 to 3, R163). -/
def execInit (s : State) : Result :=
  if granted s then
    if s.lc = .uninitialized then startSize (latch .initCmd s)
    else .refused .initializeNotUninitialized
  else .fault .notEnabled

/-- `SIZEQ` (R170): the stored pair, no exchange. -/
def execSizeq (s : State) : Result :=
  if granted s then
    if isReady s then
      match s.aw, s.dw with
      | some aw, some dw => .next (release .ok (.widths aw dw) (latch .sizeqCmd s))
      | _, _ => .fault .noValue
    else .next (raiseFailure .notInitialized (latch .sizeqCmd s))
  else .fault .notEnabled

/-- `READ(address, count)` (R181 steps 1 to 4 and sub-transfer 0; R183, R232). -/
def execRead (address count : Nat) (s : State) : Result :=
  if granted s then
    if isReady s then
      match s.aw, s.dw with
      | some aw, some dw =>
        if readInRange aw address count && startsEncodable aw (plan s.cfg.chunkWords address count) then
          match plan s.cfg.chunkWords address count with
          | q :: _ => startRead aw dw q (beginTransfer (latch (.readCmd address count) s))
          | [] => .fault .notEnabled
        else .next (raiseFailure .outOfRange (latch (.readCmd address count) s))
      | _, _ => .fault .noValue
    else .next (raiseFailure .notInitialized (latch (.readCmd address count) s))
  else .fault .notEnabled

/-- `WRITE(address, words)` (R201 steps 1 to 4 and sub-transfer 0; R203, R232). -/
def execWrite (address : Nat) (words : List WriteWord) (s : State) : Result :=
  if granted s then
    if isReady s then
      match s.aw, s.dw with
      | some aw, some dw =>
        if writeInRange aw dw address words
            && startsEncodable aw (plan s.cfg.chunkWords address words.length) then
          match plan s.cfg.chunkWords address words.length with
          | q :: _ => startWrite aw dw q (beginTransfer (latch (.writeCmd address words) s))
          | [] => .fault .notEnabled
        else .next (raiseFailure .outOfRange (latch (.writeCmd address words) s))
      | _, _ => .fault .noValue
    else .next (raiseFailure .notInitialized (latch (.writeCmd address words) s))
  else .fault .notEnabled

end Sys2Proof.Machine
end

