-- ==== Sys2Proof/Machine/Primitives.lean ====
section
/-! DEFINITION. The BitVector primitives as instructions (spec/40_bitvector.md R111 to R117): pure functions
selected by name. Their one effect is the value in `bvResult`, a field of the model's own
(notes/assumptions/11); a contract violation is refused (R121). -/

namespace Sys2Proof.Machine

/-- Hand back the value of a primitive. -/
def giveValue (v : BvValue) (s : State) : Result := .next { s with bvResult := some v }

/-- `from_unsigned(value, width)` (R113). -/
def execFromUnsigned (value : Int) (width : Nat) (s : State) : Result :=
  match fromUnsigned value width with
  | some v => giveValue (.bits v) s
  | none => .refused .domainError

/-- `to_unsigned(v)` (R114). -/
def execToUnsigned (v : Bits) (s : State) : Result := giveValue (.nat (toUnsigned v)) s

/-- `length(v)` (R111). -/
def execLength (v : Bits) (s : State) : Result := giveValue (.nat (bitLength v)) s

/-- `concat(a, b)` (R116). -/
def execConcat (a b : Bits) (s : State) : Result := giveValue (.bits (bitConcat a b)) s

/-- `slice(v, start, end)` (R117). -/
def execSlice (v : Bits) (start stop : Nat) (s : State) : Result :=
  match bitSlice v start stop with
  | some w => giveValue (.bits w) s
  | none => .refused .sliceOutOfBounds

/-- `eq(a, b)` (R112). -/
def execEq (a b : Bits) (s : State) : Result := giveValue (.bool (bitEq a b)) s

end Sys2Proof.Machine
end

