-- ==== Sys2Proof/Machine/PeerMemory.lean ====
section
/-! DEFINITION. The reference peer's memory `M` (spec/20_memory.md R66 to R70, spec/00_scope.md R15): a
list of (address, word) pairs in one canonical form, addresses strictly rising. An unlisted cell holds
its initial draw. -/

namespace Sys2Proof.Machine

/-- The word written to a cell, if any write reached it. -/
def memLookup : Memory → Nat → Option Nat
  | [], _ => none
  | (k, w) :: m, a => if a = k then some w else memLookup m a

/-- Write one cell, keeping the addresses strictly rising. -/
def memStore : Memory → Nat → Nat → Memory
  | [], a, w => [(a, w)]
  | (k, v) :: m, a, w =>
    if a < k then (a, w) :: (k, v) :: m
    else if a = k then (a, w) :: m
    else (k, v) :: memStore m a w

/-- Every address of the list lies above `lo`, and addresses rise strictly. -/
def memRisingFrom : Nat → Memory → Bool
  | _, [] => true
  | lo, (k, _) :: m => decide (lo ≤ k) && memRisingFrom (k + 1) m

/-- The canonical form: strictly rising addresses, each below `2^paw`, each word below `2^pdw`. No entry
can equal what an unlisted cell reads as, since an unlisted cell is one nothing has written. -/
def memWf (paw pdw : Nat) (m : Memory) : Bool :=
  memRisingFrom 0 m && m.all fun q => decide (q.1 < 2 ^ paw) && decide (q.2 < 2 ^ pdw)

/-- The content of one cell: what was last written, or its initial draw reduced to `pdw` bits (R42, R66). -/
def memCell (pdw : Nat) (m : Memory) (a : Nat) : Nat :=
  match memLookup m a with
  | some w => w
  | none => Config.initialWord a % 2 ^ pdw

/-- `MemRead(addr, n)` (R15): `n` words, addresses stepping by one and wrapping modulo `2^paw` (R68). -/
def memRead (paw pdw : Nat) (m : Memory) : Nat → Nat → List Nat
  | _, 0 => []
  | a, n + 1 => memCell pdw m (a % 2 ^ paw) :: memRead paw pdw m (a + 1) n

/-- `MemWrite(addr, n, v)` (R15, R69): ascending, wrapping modulo `2^paw`. -/
def memWrite (paw : Nat) (m : Memory) : Nat → List Nat → Memory
  | _, [] => m
  | a, w :: ws => memWrite paw (memStore m (a % 2 ^ paw) w) (a + 1) ws

/-- The peer is well formed (R66): widths at least 1 and encodable in a width field, memory canonical.
The oracle peer has no contents. -/
def peerWf (fieldBits : Nat) : Peer → Bool
  | .oracle => true
  | .reference paw pdw m =>
    decide (1 ≤ paw) && decide (1 ≤ pdw) && decide (paw < 2 ^ fieldBits) && decide (pdw < 2 ^ fieldBits)
      && memWf paw pdw m

end Sys2Proof.Machine
end

