-- ==== Sys2Proof/Machine/Engine.lean ====
section
/-! DEFINITION. The bit-step engine, the latency stage and the partitioner (spec/41_exchange.md R133 to
R142), the failure of an exchange (R138, R139), and what the peer does with a frame (spec/20_memory.md
R66 to R70). -/

namespace Sys2Proof.Machine

/-- `TXBIT` (R133): the bit at index `TXI` leaves on `tx_bit`. -/
def txBitStep (s : State) : State :=
  { s with
    eng := { s.eng with txi := s.eng.txi + 1 }
    ports := { s.ports with txBit := s.eng.txbuf[s.eng.txi]? } }

/-- `PARTBIT` (R142): the partitioner takes one bit. Where `WLEN` holds no value the spec gives the bit no
meaning: it is gathered in `WACC` and completes no word, without a fault (DESIGN CHOICE,
notes/assumptions/31); no state that meets the machine's invariant samples a bit there. -/
def partBit (b : Bool) (e : Engine) : Engine :=
  if some (e.wacc.length + 1) = e.wlen then
    { e with wacc := [], xq := e.xq ++ [toUnsigned (e.wacc ++ [b])] }
  else { e with wacc := e.wacc ++ [b] }

/-- `SKIPBIT` (R141): the latency stage drops the bit while `SKIP > 0`, otherwise passes it on. -/
def latencyBit (b : Bool) (e : Engine) : Engine :=
  if 0 < e.skip then { e with skip := e.skip - 1 } else partBit b e

/-- The value of `rx_bit` (R135): what the peer is committed to, or the environment's draw (R146). -/
def responseBit (draw : Bool) (answer : List (Option Bool)) : Bool :=
  match answer with
  | some b :: _ => b
  | _ => draw

/-- What `RXBIT` does in the engine: the bit is counted, kept in `RXBUF` and fed to the latency stage. -/
def sampleBit (b : Bool) (e : Engine) : Engine :=
  latencyBit b { e with rxbuf := e.rxbuf ++ [b], rxn := e.rxn - 1 }

/-- `RXBIT` (R135). -/
def rxBitStep (draw : Bool) (s : State) : State :=
  { s with
    eng := sampleBit (responseBit draw s.env.answer) s.eng
    env := { s.env with answer := s.env.answer.tail } }

/-- An exchange ends with outcome `o` (R130, R134, R136): `PH` idle, `XchgEnd` recorded, the outcome handed
to the command. -/
def endExchange (o : XchgOutcome) (s : State) : State :=
  record (.xchgEnd o)
    { s with
      eng := { s.eng with ph := .idle, outcome := some o }
      ports := { s.ports with txBit := none } }

/-- The end of `TX` (R134), with the answer the peer commits to: on to `RX`, or the end of the exchange at
once when no bit was requested. -/
def endTx (answer : List (Option Bool)) (s : State) : State :=
  if 0 < s.eng.rxn then
    { s with
      eng := { s.eng with ph := .rx }
      ports := { s.ports with txBit := none }
      env := { s.env with answer := answer } }
  else endExchange (.ok []) s

/-- The end of `RX` (R136). -/
def endRx (s : State) : State := endExchange (.ok s.eng.rxbuf) s

/-- The widths the layout of a frame depends on at its receiver (R98): the reference peer's own (R66), and
under the oracle peer the block's, when it has them. -/
def frameWidths (s : State) : Option (Nat × Nat) :=
  match s.env.peer with
  | .reference paw pdw _ => some (paw, pdw)
  | .oracle =>
    match s.aw, s.dw with
    | some a, some d => some (a, d)
    | _, _ => none

/-- The peer's answer to a SIZE frame (R67): a drawn skip bit, then its two widths. The oracle peer is
committed to nothing (R146). -/
def sizeAnswer (fieldBits : Nat) : Peer → List (Option Bool)
  | .oracle => []
  | .reference paw pdw _ => none :: (natToBits paw fieldBits ++ natToBits pdw fieldBits).map some

/-- The peer's answer to a READ frame when `resultBits` bits are sampled (R68): a word of draws, then the
words from address `a` on. -/
def readAnswer (a resultBits : Nat) : Peer → List (Option Bool)
  | .oracle => []
  | .reference paw pdw m =>
    List.replicate pdw none
      ++ ((memRead paw pdw m a (resultBits / pdw - 1)).flatMap fun w => natToBits w pdw).map some

/-- What a completed WRITE frame does to the peer (R69). -/
def peerWrite (a : Nat) (ws : List Nat) : Peer → Peer
  | .oracle => .oracle
  | .reference paw pdw m => .reference paw pdw (memWrite paw m a ws)

/-- What a cut exchange does to the peer (R70 (c)): the first `j` words of a WRITE frame cut in `TX` are
written, anything else changes nothing. `none` when the frame in transmission is no frame of the
reference peer (91 N15). -/
def peerCut (c : Config) (e : Engine) (j : Nat) : Peer → Option Peer
  | .oracle => some .oracle
  | .reference paw pdw m =>
    if e.ph = .tx then
      match decodeFrame c (some (paw, pdw)) e.txbuf with
      | .ok (.writeFrame a ws) => some (.reference paw pdw (memWrite paw m a (ws.take j)))
      | .ok _ => some (.reference paw pdw m)
      | .error _ => none
    else some (.reference paw pdw m)

/-- The engine registers an ended exchange discards on failure (R138). -/
def discard (e : Engine) : Engine := { e with txbuf := [], txi := 0, rxbuf := [], wacc := [], xq := [] }

/-- `XFAIL` and `XABORT` (R138, R139) with the outcome the transport reports. Both are absent when no
exchange is in progress (R259). -/
def breakExchange (o : XchgOutcome) (j : Nat) (s : State) : Result :=
  if s.eng.ph = .idle then .next s
  else
    match peerCut s.cfg s.eng j s.env.peer with
    | none => .refused .malformedFrame
    | some p =>
      .next (endExchange o { s with eng := discard s.eng, env := { s.env with peer := p, answer := [] } })

end Sys2Proof.Machine
end

