-- ==== Sys2Proof/Machine/Wire.lean ====
section
/-! DEFINITION. The wire opcodes (spec/30_encoding.md R80 to R94, R171, R192, R210, spec/45_nop.md). A frame
is executed when its last bit has been transmitted: the exchange leaves `TX` (R134) and the peer does
what the opcode asks of it. Under the oracle peer the answer is draws (R146); under the reference peer
it is R67 to R70's. The block *emits* frames by `xstart` (Ops.lean), which refuses a NOP frame (R221). -/

namespace Sys2Proof.Machine

/-- `NOP` received (R222, R70 (b), 93 U25): the peer changes nothing and every requested bit is a draw. -/
def execNop (s : State) : Result :=
  if frameSent s then .next (endTx [] s) else .fault .notEnabled

/-- `SIZE` received (R171, R67): the peer answers with its widths and changes nothing. -/
def execSize (s : State) : Result :=
  if frameSent s then .next (endTx (sizeAnswer s.cfg.fieldBits s.env.peer) s) else .fault .notEnabled

/-- `READ` received (R192, R68): after one invalid word-time the peer streams the words from `a` on. -/
def execReadFrame (a : Nat) (s : State) : Result :=
  if frameSent s then .next (endTx (readAnswer a s.eng.rxn s.env.peer) s) else .fault .notEnabled

/-- `WRITE` received (R210, R69): the peer stores the words from `a` on. -/
def execWriteFrame (a : Nat) (ws : List Nat) (s : State) : Result :=
  if frameSent s then
    .next (endTx [] { s with env := { s.env with peer := peerWrite a ws s.env.peer } })
  else .fault .notEnabled

end Sys2Proof.Machine
end

