-- ==== Sys2Proof/Machine/Dispatch.lean ====
section
/-! DEFINITION. One arm per instruction. -/

namespace Sys2Proof.Machine

def exec (i : Instr) (s : State) : Host.Outcome State Fault Refusal :=
  match i with
  | .nop => Sys2Proof.Machine.execNop s
  | .size => Sys2Proof.Machine.execSize s
  | .writeFrame address words => Sys2Proof.Machine.execWriteFrame address words s
  | .readFrame address => Sys2Proof.Machine.execReadFrame address s
  | .initCmd => Sys2Proof.Machine.execInit s
  | .sizeqCmd => Sys2Proof.Machine.execSizeq s
  | .readCmd address count => Sys2Proof.Machine.execRead address count s
  | .writeCmd address words => Sys2Proof.Machine.execWrite address words s
  | .bvFromUnsigned value width => Sys2Proof.Machine.execFromUnsigned value width s
  | .bvToUnsigned v => Sys2Proof.Machine.execToUnsigned v s
  | .bvLength v => Sys2Proof.Machine.execLength v s
  | .bvConcat a b => Sys2Proof.Machine.execConcat a b s
  | .bvSlice v start stop => Sys2Proof.Machine.execSlice v start stop s
  | .bvEq a b => Sys2Proof.Machine.execEq a b s

end Sys2Proof.Machine
end

