-- ==== Sys2Proof/Machine/Sequencer.lean ====
section
/-! DEFINITION. The sequencer (spec/10_state.md R31): what one step does besides executing an instruction.
The command in progress goes on when its exchange has ended (spec/42_size_initialize.md R161 steps 4 to
7, spec/43_read.md R181 and spec/44_write.md R201 steps 5d, 5e, 5a, 6), pending commands are granted
(spec/60_exceptions.md R270), frames are received at the end of `TX`, and the environment's moves take
effect. -/

namespace Sys2Proof.Machine

/-- Steps 5 to 7 of INITIALIZE on an `Ok` exchange (R165 to R167). The two fields are what the partitioner
completed. Anything but two fields is a response of the wrong length, a `TransportError` with nothing
decoded (R137); the engine cannot produce it (R135). -/
def finishInit (s : State) : State :=
  match s.eng.xq with
  | [aw, dw] =>
    if aw = 0 ∨ dw = 0 then
      raiseFailure .configurationError { s with lc := .dead, cmd := { s.cmd with rq := [aw, dw] } }
    else
      release .ok .nothing
        { s with lc := .ready, aw := some aw, dw := some dw, cmd := { s.cmd with rq := [aw, dw] } }
  | _ => raiseFailure .transportError s

/-- The sub-transfer plan of the command in progress, from its latched operands (R231). -/
def currentPlan (s : State) : Option (List (Nat × Nat)) :=
  match s.cmd.addr, s.cmd.count with
  | some a, some n => some (plan s.cfg.chunkWords a n)
  | _, _ => none

/-- Step 5e (R181, R189, R201) of sub-transfer `KI` with `n` words, then the loop's next index or step 6.
`words` are appended to `RQ` and `data` is what a return hands back. -/
def finishSub (k n : Nat) (words : List Nat) (isRead : Bool) (s : State) : State :=
  let s' : State :=
    { s with cmd := { s.cmd with rq := s.cmd.rq ++ words, doneWords := s.cmd.doneWords + n } }
  if s.cmd.ki + 1 < k then
    { s' with cmd := { s'.cmd with ki := s.cmd.ki + 1 }, eng := { s'.eng with outcome := none } }
  else release .ok (if isRead then .words s'.cmd.rq else .nothing) s'

/-- Step 5e of READ or WRITE on an `Ok` exchange: READ appends the words the partitioner completed, WRITE
appends none. -/
def finishTransfer (isRead : Bool) (s : State) : Result :=
  match currentPlan s with
  | none => .fault .noValue
  | some p =>
    match p[s.cmd.ki]? with
    | none => .fault .notEnabled
    | some q => .next (finishSub p.length q.2 (if isRead then s.eng.xq else []) isRead s)

/-- The command acts on the outcome of its exchange: a failure becomes the command's status unchanged
(R164, R188, R207), an `Ok` goes on. -/
def collect (o : XchgOutcome) (s : State) : Result :=
  match o with
  | .transportError => .next (raiseFailure .transportError s)
  | .cancelled => .next (raiseFailure .cancelled s)
  | .ok _ =>
    match s.cmd.op with
    | some .initCmd => .next (finishInit s)
    | some .readCmd => finishTransfer true s
    | some .writeCmd => finishTransfer false s
    | some .sizeqCmd => .fault .notEnabled
    | none => .fault .noValue

/-- `PROGRESS` (R243): `DONE_WORDS` on the `progress` port, an output only. -/
def emitProgress (s : State) : State :=
  record (.progress s.cmd.doneWords) { s with ports := { s.ports with progress := some s.cmd.doneWords } }

/-- Start sub-transfer `KI` of the command in progress (R181, R201 steps 5b, 5c). -/
def startCurrent (s : State) : Result :=
  match currentPlan s, s.aw, s.dw with
  | some p, some aw, some dw =>
    match p[s.cmd.ki]? with
    | none => .fault .notEnabled
    | some q =>
      match s.cmd.op with
      | some .readCmd => startRead aw dw q s
      | some .writeCmd => startWrite aw dw q s
      | _ => .fault .notEnabled
  | _, _, _ => .fault .noValue

/-- The between-chunks point (R240, R243; step 5a): progress is reported, `cancel_req` is sampled once,
then the command is cancelled or the next sub-transfer starts. -/
def betweenChunks (cancelReq : Bool) (s : State) : Result :=
  if cancelReq then .next (raiseFailure .cancelled (emitProgress s)) else startCurrent (emitProgress s)

/-- The frame of the exchange is complete: the decoded instruction is executed. Bits that are no frame get
draws for an answer under the oracle peer (93 U25) and are refused under the reference peer. -/
def receiveFrame (s : State) : Result :=
  match decodeFrame s.cfg (frameWidths s) s.eng.txbuf with
  | .ok i => exec i s
  | .error _ =>
    match s.env.peer with
    | .oracle => if frameSent s then .next (endTx [] s) else .fault .notEnabled
    | .reference _ _ _ => .refused .malformedFrame

/-- Nothing in the exchange engine: the command in progress goes on, or a pending command is granted and
executed, or the block stays idle (R283). -/
def idleStep (x : Inputs) (s : State) : Result :=
  if s.busy then
    match s.eng.outcome with
    | some o => collect o s
    | none => betweenChunks x.cancelReq s
  else
    match pickPending x.pick s with
    | some (i, c, cmd) => exec cmd.toInstr (grant i c s)
    | none => .next s

/-- The one step of the block that is enabled (R132 to R136, R147: the command in progress makes no other
step while its exchange is in `TX` or `RX`). -/
def blockStep (x : Inputs) (s : State) : Result :=
  match s.eng.ph with
  | .tx => if s.eng.txi < s.eng.txbuf.length then .next (txBitStep s) else receiveFrame s
  | .rx => if 0 < s.eng.rxn then .next (rxBitStep x.rxBit s) else .next (endRx s)
  | .idle => idleStep x s

/-- A caller with a command presented and not returned (R274). -/
def callerWaits (c : Caller) (s : State) : Bool := s.owner == some c || s.pending.any (·.1 == c)

/-- `Call` (R38, R271): the command joins `PENDING` and waits for its grant; a caller that already waits
is refused (R274). -/
def present (c : Caller) (cmd : Command) (s : State) : Result :=
  if callerWaits c s then .refused .callerReentry
  else .next (record (.call c cmd) { s with pending := s.pending ++ [(c, cmd)] })

/-- The reset event (R290 to R292): admitted only when idle; every register takes its reset value, the
constants of the instance and the peer stay. -/
def resetBlock (s : State) : Result :=
  if s.busy || !s.pending.isEmpty then .refused .resetWhileBusy
  else .next (State.constructed s.cfg { s.env with answer := [] } s.history)

/-- What one move of the environment does. `silence` is a step in which nothing happens: on a
link in `TX` or `RX` the silence of R147 and R305, in `IDLE` a block that has not taken its step yet
(DESIGN CHOICE, notes/assumptions/22). -/
def stepMove (m : Move) (s : State) : Result :=
  match m with
  | .tick x => blockStep x s
  | .call c cmd => present c cmd s
  | .linkFail j => breakExchange .transportError j s
  | .linkAbort j => breakExchange .cancelled j s
  | .reset => resetBlock s
  | .silence => .next s
  | .evaluate p => exec p.toInstr s

/-- The next move and the state with that move taken: the head of the script, or a free draw when the
script has run out. -/
def takeMove (s : State) : Move × State :=
  match s.env.script with
  | m :: rest => (m, { s with env := { s.env with script := rest } })
  | [] => (Config.drawMove s.env.draws, { s with env := { s.env with draws := s.env.draws + 1 } })

/-- The command registers of a command whose exchange carries the frame `i` (one word for READ). No command
sends NOP (R220), so a staged NOP frame stands with empty command registers (DESIGN CHOICE,
notes/assumptions/30). -/
def frameCommand (i : Instr) : CommandRegs :=
  match i with
  | .size => { CommandRegs.clear with op := some .initCmd }
  | .readFrame a => { CommandRegs.clear with op := some .readCmd, addr := some a, count := some 1 }
  | .writeFrame a ws =>
    { CommandRegs.clear with op := some .writeCmd, addr := some a, count := some ws.length, wq := ws }
  | _ => CommandRegs.clear

/-- The response bits requested with a frame, and how they are cut (R140): SIZE, READ of one word, or
nothing for WRITE. For NOP the spec gives no response length (R220): that a staged NOP frame requests no bit is
the model's (DESIGN CHOICE, notes/assumptions/30). -/
def frameRequest (c : Config) (dw : Nat) (i : Instr) : Nat × Nat × Option Nat :=
  match i with
  | .size => (c.sizeRespBits, 1, some c.fieldBits)
  | .readFrame _ => (2 * dw, dw, some dw)
  | .writeFrame _ _ => (0, 0, some dw)
  | _ => (0, 0, none)

/-- The state in which the frame of a table word has just been transmitted on behalf of the command that
sends it, and the next move is a step of the block: what the fetch of a wire instruction takes. Widths
are those in force, or `Config.tableWidths` where none are and the frame needs them. -/
def stageWord (s : State) (nbits w : Nat) : State :=
  let (aw, dw) := (frameWidths s).getD Config.tableWidths
  let f := tableFrame s.cfg aw dw nbits w
  let i := match decodeFrame s.cfg (some (aw, dw)) f with
    | .ok i => i
    | .error _ => .nop
  let (n, skip, wlen) := frameRequest s.cfg dw i
  let needsWidths := match i with
    | .readFrame _ | .writeFrame _ _ => (frameWidths s).isNone
    | _ => false
  { s with
    lc := if needsWidths then .ready else s.lc
    aw := if needsWidths then some aw else s.aw
    dw := if needsWidths then some dw else s.dw
    busy := true
    owner := some (s.owner.getD 0)
    cmd := frameCommand i
    eng :=
      { ph := .tx, txbuf := f, txi := f.length, rxn := n, rxbuf := [], skip := skip, wlen := wlen,
        wacc := [], xq := [], outcome := none }
    env := { s.env with script := .tick {} :: s.env.script } }

end Sys2Proof.Machine
end

