-- ==== Sys2Proof/Machine/Step.lean ====
section
/-! DEFINITION. One step of the machine, and the placing of a table word where the next step fetches it. -/

namespace Sys2Proof.Machine

/-- One step: the environment's next move takes effect (spec/41_exchange.md section 2: which enabled step
happens next is free). -/
def step (s : State) : Host.Outcome State Fault Refusal := stepMove (takeMove s).1 (takeMove s).2

/-- The frame of a table word, transmitted whole and about to be received by the next step. There is no
program and no program counter (R31, R72); notes/assumptions/14 says how a command comes to run from
reset. -/
def State.withFetchWord (s : State) (nbits w : Nat) : State := stageWord s nbits w

end Sys2Proof.Machine
end

