-- ==== Sys2Proof/Machine/CallLevel.lean ====
section
/-! DEFINITION. The exchange and the commands at the level of one call, which the spec makes normative
(spec/41_exchange.md R130, R137, R143, R147; the pseudocode of spec/42_size_initialize.md R161,
spec/43_read.md R181, spec/44_write.md R201). A transport hands back a whole response here, of whatever
length; the bit-step engine of Machine/Engine.lean is the spec's rendering of the same exchange. -/

namespace Sys2Proof.Machine

/-- What a transport does with one `send_rcv` call: hand back some bits, or report a failure or an abort. -/
inductive LinkAnswer where
  | bits (r : Bits)
  | linkFail
  | linkAbort
deriving DecidableEq, Repr

/-- `send_rcv(·, n)` (R130): exactly one of three outcomes; a response that is not `n` bits long is a
`TransportError` and nothing of it is decoded (R137). -/
def sendRcv (n : Nat) : LinkAnswer → XchgOutcome
  | .bits r => if r.length = n then .ok r else .transportError
  | .linkFail => .transportError
  | .linkAbort => .cancelled

/-- The environment's part in one sub-transfer: the `cancel_req` sampled at the between-chunks point
before it (not sampled before sub-transfer 0, R240) and the transport's answer. -/
structure SubEnv where
  cancelReq : Bool
  answer : LinkAnswer
deriving DecidableEq, Repr

/-- A command that has returned: what changed of `LC`, `AW`, `DW`, its status and data, and the events
between its grant and its return (R18). -/
structure CallResult where
  lc : Lifecycle
  widths : Option (Nat × Nat)
  status : Status
  data : RetData
  events : List Event
deriving DecidableEq, Repr

/-- How a call goes: it returns, it never does (the environment offers nothing more: R147, R305), or it has
no meaning. -/
inductive CallRun where
  | returns (r : CallResult)
  | hangs
  | refused (r : Refusal)
deriving DecidableEq, Repr

/-- `INITIALIZE` (R161), whole. -/
def callInit (c : Config) (lc : Lifecycle) (answer : LinkAnswer) : CallRun :=
  if lc = .uninitialized then
    match fromUnsigned c.opSize.toNat 2 with
    | none => .refused .domainError
    | some p =>
      let o := sendRcv c.sizeRespBits answer
      let events := [Event.xchg p c.sizeRespBits, .xchgEnd o]
      match o with
      | .transportError => .returns ⟨lc, none, .transportError, .nothing, events⟩
      | .cancelled => .returns ⟨lc, none, .cancelled, .nothing, events⟩
      | .ok r =>
        match responseWords r 1 c.fieldBits 2 with
        | some [aw, dw] =>
          if aw = 0 ∨ dw = 0 then .returns ⟨.dead, none, .configurationError, .nothing, events⟩
          else .returns ⟨.ready, some (aw, dw), .ok, .nothing, events⟩
        | _ => .refused .sliceOutOfBounds
  else .refused .initializeNotUninitialized

/-- Step 5a for `k > 0` (R240, R243): the events of the between-chunks point and the sampled request; none
before sub-transfer 0. -/
def chunkPoint (first : Bool) (done : Nat) (e : SubEnv) : List Event × Bool :=
  if first then ([], false) else ([.progress done], e.cancelReq)

/-- The loop of READ (R181 step 5) over the remaining plan, and step 6. -/
def readLoop (c : Config) (aw dw : Nat) (first : Bool) :
    List (Nat × Nat) → List SubEnv → List Nat → List Event → CallRun
  | [], _, rq, events => .returns ⟨.ready, some (aw, dw), .ok, .words rq, events⟩
  | _ :: _, [], _, _ => .hangs
  | q :: rest, e :: envs, rq, events =>
    let events := events ++ (chunkPoint first rq.length e).1
    if (chunkPoint first rq.length e).2 then
      .returns ⟨.ready, some (aw, dw), .cancelled, .nothing, events⟩
    else
      match encode c aw dw (.readFrame q.1) with
      | none => .refused .domainError
      | some p =>
        let o := sendRcv ((q.2 + 1) * dw) e.answer
        let events := events ++ [.xchg p ((q.2 + 1) * dw), .xchgEnd o]
        match o with
        | .transportError => .returns ⟨.ready, some (aw, dw), .transportError, .nothing, events⟩
        | .cancelled => .returns ⟨.ready, some (aw, dw), .cancelled, .nothing, events⟩
        | .ok r =>
          match responseWords r dw dw q.2 with
          | none => .refused .sliceOutOfBounds
          | some ws => readLoop c aw dw false rest envs (rq ++ ws) events

/-- `READ(address, count)` (R181) on a Ready instance, whole. -/
def callRead (c : Config) (aw dw address count : Nat) (envs : List SubEnv) : CallRun :=
  if readInRange aw address count && startsEncodable aw (plan c.chunkWords address count) then
    readLoop c aw dw true (plan c.chunkWords address count) envs [] []
  else .returns ⟨.ready, some (aw, dw), .outOfRange, .nothing, []⟩

/-- The loop of WRITE (R201 step 5) over the remaining plan and the words not yet sent, and step 6. -/
def writeLoop (c : Config) (aw dw : Nat) (first : Bool) (total : Nat) :
    List (Nat × Nat) → List SubEnv → List Nat → List Event → CallRun
  | [], _, _, events => .returns ⟨.ready, some (aw, dw), .ok, .nothing, events⟩
  | _ :: _, [], _, _ => .hangs
  | q :: rest, e :: envs, left, events =>
    let events := events ++ (chunkPoint first (total - left.length) e).1
    if (chunkPoint first (total - left.length) e).2 then
      .returns ⟨.ready, some (aw, dw), .cancelled, .nothing, events⟩
    else
      match encode c aw dw (.writeFrame q.1 (left.take q.2)) with
      | none => .refused .domainError
      | some p =>
        let o := sendRcv 0 e.answer
        let events := events ++ [.xchg p 0, .xchgEnd o]
        match o with
        | .transportError => .returns ⟨.ready, some (aw, dw), .transportError, .nothing, events⟩
        | .cancelled => .returns ⟨.ready, some (aw, dw), .cancelled, .nothing, events⟩
        | .ok _ => writeLoop c aw dw false total rest envs (left.drop q.2) events

/-- `WRITE(address, words)` (R201) on a Ready instance, whole. -/
def callWrite (c : Config) (aw dw address : Nat) (words : List WriteWord) (envs : List SubEnv) : CallRun :=
  if writeInRange aw dw address words && startsEncodable aw (plan c.chunkWords address words.length) then
    writeLoop c aw dw true words.length (plan c.chunkWords address words.length) envs
      (words.map wordValue) []
  else .returns ⟨.ready, some (aw, dw), .outOfRange, .nothing, []⟩

/-- The moves by which the environment gives `answer` to an exchange of a `frameBits`-bit frame and `n`
response bits, and the block then acts on the outcome: one tick per transmitted bit, one for the end of
`TX`, one per sampled bit and one for the end of `RX` when bits are sampled, one for the command (R310
counts the bit-times). A response of the wrong length is a link failure at this level (R137). A failure or an
abort is raised here before the first bit; raised at any later bit it ends the exchange in the same way
(`breakExchange`). -/
def exchangeMoves (frameBits n : Nat) (answer : LinkAnswer) : List Move :=
  match sendRcv n answer with
  | .ok r =>
    List.replicate (frameBits + 1) (.tick {})
      ++ (if 0 < n then r.map (fun b => .tick { rxBit := b }) ++ [.tick {}] else [])
      ++ [.tick {}]
  | .transportError => [.linkFail 0, .tick {}]
  | .cancelled => [.linkAbort 0, .tick {}]

/-- The moves of a whole transfer after its grant: `frameBits` and `bits` give each sub-transfer's frame
length and response bits. They end where the command returns. -/
def transferMoves (frameBits bits : Nat → Nat) (first : Bool) :
    List (Nat × Nat) → List SubEnv → List Move
  | q :: rest, e :: envs =>
    (if first then [] else [.tick { cancelReq := e.cancelReq }])
      ++ (if !first && e.cancelReq then []
          else exchangeMoves (frameBits q.2) (bits q.2) e.answer
            ++ (match sendRcv (bits q.2) e.answer with
                | .ok _ => transferMoves frameBits bits false rest envs
                | _ => []))
  | _, _ => []

end Sys2Proof.Machine
end

