-- ==== Sys2Proof/Safety.lean ====
section
/-! DEFINITION. The terms claims are made in: when a run is over (spec/70_reset_and_hazards.md R312), what
every state of a run keeps (spec/10_state.md R23, R25, R33, R34, R36, spec/41_exchange.md R131, R136,
spec/46_chunking_cancel.md R231 to R233, spec/60_exceptions.md R270, R274), and when a history serves
one command at a time (spec/95_test_vectors.md S6). All are decidable. -/

namespace Sys2Proof.Machine

/-- `k` steps of the machine, stopping at the first fault or refusal. -/
def runFor : Nat → State → Result
  | 0, s => .next s
  | k + 1, s =>
    match step s with
    | .next t => runFor k t
    | .fault f => .fault f
    | .refused r => .refused r

/-- `s` with the environment's moves to come replaced by `ms`. -/
def withScript (s : State) (ms : List Move) : State := { s with env := { s.env with script := ms } }

/-- `u` is a state in which the command that caller `c` had in progress in `s` has returned as the
call-level result `r` says (R18, R262, R272), everything outside the command and its exchanges as in
`s`. -/
def returnedAs (s : State) (c : Caller) (r : CallResult) (u : State) : Prop :=
  u.lc = r.lc
    ∧ (match r.widths with
       | some (aw, dw) => u.aw = some aw ∧ u.dw = some dw
       | none => u.aw = s.aw ∧ u.dw = s.dw)
    ∧ u.status = some r.status
    ∧ u.ports.ret = some (some c, r.status, r.data)
    ∧ u.history = s.history ++ r.events ++ [.ret (some c) r.status r.data]
    ∧ u.busy = false ∧ u.owner = none ∧ u.eng.ph = .idle ∧ u.eng.outcome = none
    ∧ u.cfg = s.cfg ∧ u.pending = s.pending ∧ u.env.peer = s.env.peer ∧ u.bvResult = s.bvResult

/-- `s` with a command returned in the step that granted it (R262, R272): the exclusion released, the
status and the `ret` port written, `Return` recorded, the operands latched as `regs`, and nothing else
changed; in particular no exchange is started. -/
def returnedAtOnce (s : State) (regs : CommandRegs) (st : Status) (d : RetData) : State :=
  { s with
    busy := false
    owner := none
    status := some st
    cmd := regs
    ports := { s.ports with ret := some (s.owner, st, d) }
    history := s.history ++ [.ret s.owner st d] }

/-- `s` with the exchange of a frame started (R132): the engine loaded, `xchg_start` driven, `Xchg`
recorded, the command registers as `regs`, and nothing else changed. -/
def exchangeStarted (s : State) (regs : CommandRegs) (frame : Bits) (n skip wlen : Nat) : State :=
  { s with
    cmd := regs
    eng :=
      { ph := .tx, txbuf := frame, txi := 0, rxn := n, rxbuf := [], skip := skip, wlen := some wlen,
        wacc := [], xq := [], outcome := none }
    ports := { s.ports with xchgStart := some (s.cfg.moduleId, frame, n) }
    history := s.history ++ [.xchg frame n] }

/-- `s` with its frame received and the peer committed to `answer` (R134, first case): `RX` begins, nothing
else changed. -/
def receiving (s : State) (answer : List (Option Bool)) : State :=
  { s with
    eng := { s.eng with ph := .rx }
    ports := { s.ports with txBit := none }
    env := { s.env with answer := answer } }

/-- `s` with its exchange ended by outcome `o` (R130, R134, R136): `PH` idle, `XchgEnd` recorded, the outcome
handed to the command, nothing else changed. -/
def exchangeEnded (s : State) (o : XchgOutcome) : State :=
  { s with
    eng := { s.eng with ph := .idle, outcome := some o }
    ports := { s.ports with txBit := none }
    history := s.history ++ [.xchgEnd o] }

/-- The words of the first sub-transfer of a command of `n` words (R231): all of them, or a chunk. -/
def firstCount (chunkWords : Option Nat) (n : Nat) : Nat :=
  match chunkWords with
  | none => n
  | some c => min c n

/-- The exchanges started in a history (R18, R148). -/
def exchangeCount (h : List Event) : Nat :=
  h.countP fun e =>
    match e with
    | .xchg _ _ => true
    | _ => false

/-- The exchanges started in a history, in order: payload and response bits requested (R18, R148). -/
def exchangesOf (h : List Event) : List (Bits × Nat) :=
  h.filterMap fun e =>
    match e with
    | .xchg p n => some (p, n)
    | _ => none

/-- A run of the instance is over (R312): nothing pending, nothing in progress, the engine idle. Every
caller has then returned or presented nothing. -/
def runOver (s : State) : Bool := s.pending.isEmpty && !s.busy && s.eng.ph == .idle

/-- `BUSY`, `OWNER`, `PENDING` and `PH` agree (R25, R131, R274): the exclusion is held exactly while a
caller owns it, no exchange exists without a command, an outcome waits only after an exchange, and no
caller has two commands outstanding. -/
def exclusionOk (s : State) : Bool :=
  s.busy == s.owner.isSome
    && (s.busy || (s.eng.ph == .idle && s.eng.outcome.isNone))
    && (s.eng.ph == .idle || s.eng.outcome.isNone)
    && decide (s.pending.map (·.1)).Nodup
    && s.pending.all fun p => s.owner != some p.1

/-- `AW` and `DW` hold a value exactly in `Ready`, each at least 1 and of `FIELD_BITS` bits (R23, R275). -/
def lifecycleOk (s : State) : Bool :=
  match s.lc, s.aw, s.dw with
  | .ready, some a, some d =>
    decide (1 ≤ a) && decide (1 ≤ d) && decide (a < 2 ^ s.cfg.fieldBits) && decide (d < 2 ^ s.cfg.fieldBits)
  | .ready, _, _ => false
  | _, none, none => true
  | _, _, _ => false

/-- The exchange the command in progress is at (R140, R148): its frame, the response bits requested, the
bits skipped first and the word length; `none` when the command registers describe none. -/
def currentExchange (s : State) : Option (Instr × Nat × Nat × Nat) :=
  match s.cmd.op with
  | some .initCmd =>
    if s.lc = .uninitialized then some (.size, s.cfg.sizeRespBits, 1, s.cfg.fieldBits) else none
  | some .readCmd =>
    match currentPlan s, s.dw with
    | some p, some dw =>
      match p[s.cmd.ki]? with
      | some q => some (.readFrame q.1, (q.2 + 1) * dw, dw, dw)
      | none => none
    | _, _ => none
  | some .writeCmd =>
    match currentPlan s, s.dw with
    | some p, some dw =>
      match p[s.cmd.ki]? with
      | some q => some (.writeFrame q.1 (subWords q.2 s), 0, 0, dw)
      | none => none
    | _, _ => none
  | _ => none

/-- The registers of a command in progress (R27 to R30, R183, R203, R232): `INITIALIZE` runs only while
Uninitialized; a transfer has passed its validation, `DONE_WORDS` counts the words of the sub-transfers
before `KI`, `RQ` holds that many words of `DW` bits, `WQ` every word of the WRITE. -/
def commandOk (s : State) : Bool :=
  match s.cmd.op with
  | some .initCmd => s.lc == .uninitialized
  | some .readCmd => transferOk && s.cmd.rq.length == s.cmd.doneWords
  | some .writeCmd => transferOk && some s.cmd.wq.length == s.cmd.count
  | _ => false
where
  transferOk : Bool :=
    match currentPlan s, s.cmd.count, s.aw, s.dw with
    | some p, some n, some aw, some dw =>
      s.lc == .ready && decide (1 ≤ n) && startsEncodable aw p && decide (s.cmd.ki < p.length)
        && s.cmd.doneWords == ((p.take s.cmd.ki).map (·.2)).sum
        && s.cmd.rq.all (· < 2 ^ dw) && s.cmd.wq.all (· < 2 ^ dw)
    | _, _, _, _ => false

/-- The engine in an exchange, or right after one that ended `Ok` (R33, R34, R36, R136, R144): `TXBUF` is the
frame of the current sub-transfer, `RXBUF` and `RXN` add up to the bits requested, `SKIP` counts the bits
still to drop, and the words completed together with the bits of the word in assembly are exactly the
bits sampled after the skip. -/
def exchangeOk (s : State) : Bool :=
  match currentExchange s with
  | some (i, n, skip, wlen) =>
    encode s.cfg (s.aw.getD 0) (s.dw.getD 0) i == some s.eng.txbuf
      && s.eng.rxbuf.length + s.eng.rxn == n
      && s.eng.skip == skip - s.eng.rxbuf.length
      && s.eng.wlen == some wlen
      && decide (s.eng.wacc.length < wlen)
      && s.eng.xq.all (· < 2 ^ wlen)
      && (s.eng.xq.flatMap fun w => natToBits w wlen) ++ s.eng.wacc == s.eng.rxbuf.drop skip
      && (s.eng.ph != .tx || s.eng.rxbuf.isEmpty)
      && (s.eng.ph != .rx || decide (0 < n))
  | none => false

/-- The engine with respect to the command in progress (R31 to R36, R240): an exchange in `TX` or `RX`, an
`Ok` outcome not yet acted on, a failed exchange, or a between-chunks point of sub-transfer `KI ≥ 1`. -/
def engineOk (s : State) : Bool :=
  decide (s.eng.txi ≤ s.eng.txbuf.length)
    && (!s.busy ||
      (commandOk s &&
        match s.eng.ph, s.eng.outcome with
        | .idle, none => s.cmd.op != some .initCmd && decide (1 ≤ s.cmd.ki)
        | .idle, some (.ok r) => exchangeOk s && r == s.eng.rxbuf && s.eng.rxn == 0
        | .idle, some _ => true
        | _, _ => exchangeOk s))

/-- The invariant of the machine. -/
def inv (s : State) : Bool :=
  s.cfg.legal && peerWf s.cfg.fieldBits s.env.peer && exclusionOk s && lifecycleOk s && engineOk s

/-- One event of a history that serves one command and one exchange at a time (R270, R131): the state is
the caller holding the exclusion and whether an exchange is open; `none` is a violation. -/
def scanEvent (a : Option Caller × Bool) (e : Event) : Option (Option Caller × Bool) :=
  match e, a with
  | .call _ _, _ => some a
  | .grant c, (none, false) => some (some c, false)
  | .xchg _ _, (some c, false) => some (some c, true)
  | .xchgEnd _, (some c, true) => some (some c, false)
  | .progress _, (some c, false) => some (some c, false)
  | .ret o _ _, (some c, false) => if o = some c then some (none, false) else none
  | _, _ => none

/-- The state a history leads to, or `none` if two commands or two exchanges of the instance ever overlap. -/
def scanHistory (h : List Event) : Option (Option Caller × Bool) :=
  h.foldl (fun a e => a.bind fun x => scanEvent x e) (some (none, false))

/-- The history admits no overlap and agrees with `OWNER` and `PH`. -/
def historyOk (s : State) : Bool := scanHistory s.history == some (s.owner, s.eng.ph != .idle)

/-- The exchanges of a history that carry a frame whose opcode is `OP_NOP` (R220, R223). -/
def nopExchanges (c : Config) (h : List Event) : List Event :=
  h.filter fun e =>
    match e with
    | .xchg p _ => p.take 2 == opcodeBits c.opNop
    | _ => false

end Sys2Proof.Machine
end

