-- ==== Sys2Proof/Certificates/Slice0/Obligations.lean ====
section
/-! DEFINITION. The statements for the provers. Every one is about every state, hence about every
configuration (the parameters are a field of State) and about every environment (its moves are data in
State). Rule numbers are those of spec/. -/

open Sys2Proof Sys2Proof.Machine

/-! ### Frames -/

/-- R118 ("decoding a frame built by R91 or R94 returns the operands that were encoded"), for every wire
instruction, every operand its encoding admits and every legal configuration. That a NOP frame is its opcode
alone is the model's choice (notes/assumptions/29). -/
def Obligations.DecodingAnEncodedFrameGivesItBack : Prop :=
  ∀ (c : Config) (aw dw : Nat) (i : Instr),
    c.legal = true → i.isFrame = true → i.wellFormed aw dw = true →
      ∃ f, encode c aw dw i = some f ∧ decodeFrame c (some (aw, dw)) f = .ok i

/-- The other direction (R103): a frame the decoder accepts is well formed and is, bit for bit, the frame of
the instruction read. NOP is left out: whatever follows its opcode is ignored, since the spec defines no
continuation. -/
def Obligations.AnAcceptedFrameIsTheEncodingOfWhatWasRead : Prop :=
  ∀ (c : Config) (aw dw : Nat) (f : Bits) (i : Instr),
    decodeFrame c (some (aw, dw)) f = .ok i → i ≠ .nop →
      i.wellFormed aw dw = true ∧ encode c aw dw i = some f

/-- R91, R92, R94: length and content of every index of the three transmitted frames. The significance of a
field's bits is decision D3. -/
def Obligations.FramesHaveTheLayoutOfTheirFormat : Prop :=
  ∀ (c : Config) (aw dw a : Nat) (ws : List Nat),
    a < 2 ^ aw → (∀ w ∈ ws, w < 2 ^ dw) → ws ≠ [] →
      (∃ f, encode c aw dw .size = some f ∧ f.length = 2 ∧
        ∀ i < 2, f[i]? = some (bitOf c.opSize.toNat i)) ∧
      (∃ f, encode c aw dw (.readFrame a) = some f ∧ f.length = 2 + aw ∧
        (∀ i < 2, f[i]? = some (bitOf c.opRead.toNat i)) ∧
        ∀ i < aw, f[2 + i]? = some (bitOf a i)) ∧
      (∃ f, encode c aw dw (.writeFrame a ws) = some f ∧ f.length = 2 + aw + ws.length * dw ∧
        (∀ i < 2, f[i]? = some (bitOf c.opWrite.toNat i)) ∧
        (∀ i < aw, f[2 + i]? = some (bitOf a i)) ∧
        ∀ j w, ws[j]? = some w → ∀ i < dw, f[2 + aw + j * dw + i]? = some (bitOf w i))

/-- A few frames of spec/95_test_vectors.md (EN1, EN2, EN7, EN8) written out bit by bit and decoded, at the
suggested opcodes (notes/assumptions/1). -/
def Obligations.WrittenOutFramesDecode : Prop :=
  decodeFrame Config.suggested none [true, false] = .ok .size
    ∧ decodeFrame Config.suggested (some (8, 8))
        [true, true, true, false, true, false, false, false, false, false] = .ok (.readFrame 5)
    ∧ decodeFrame Config.suggested (some (8, 8))
        [false, true, true, false, true, false, false, false, false, false,
          true, true, true, false, false, false, false, false] = .ok (.writeFrame 5 [7])
    ∧ decodeFrame Config.suggested (some (4, 4))
        [false, true, true, false, false, true, true, false, false, false, false, true, false, false,
          true, true, true, true] = .ok (.writeFrame 9 [1, 2, 15])

/-! ### BitVector primitives -/

/-- R113 with the bit placement of decision D3: the bits, or the domain error; nothing else changes. -/
def Obligations.FromUnsignedGivesTheBitsOrRefuses : Prop :=
  ∀ (v : Int) (w : Nat) (s : State),
    (0 ≤ v ∧ v < 2 ^ w →
      ∃ b, exec (.bvFromUnsigned v w) s = .next { s with bvResult := some (.bits b) } ∧ b.length = w ∧
        ∀ i < w, b[i]? = some (bitOf v.toNat i)) ∧
    (v < 0 ∨ 2 ^ w ≤ v → exec (.bvFromUnsigned v w) s = .refused .domainError)

/-- R114: the sum of the bits' weights, always below `2^len(v)`; nothing else changes. -/
def Obligations.ToUnsignedIsTheSumOfTheBitWeights : Prop :=
  ∀ (v : Bits) (s : State),
    ∃ n, exec (.bvToUnsigned v) s = .next { s with bvResult := some (.nat n) } ∧
      n = ∑ i ∈ Finset.range v.length, (v.getD i false).toNat * 2 ^ i ∧ n < 2 ^ v.length

/-- R115, all three laws. -/
def Obligations.EncodingThenDecodingANumberGivesItBack : Prop :=
  (∀ v w : Nat, v < 2 ^ w → ∃ b, fromUnsigned v w = some b ∧ toUnsigned b = v) ∧
  (∀ x : Bits, fromUnsigned (toUnsigned x) x.length = some x) ∧
  (∀ (v : Int) (w : Nat) (b : Bits), fromUnsigned v w = some b → b.length = w)

/-- R111 and R112: the bit count, and bitwise equality that also asks for equal lengths. That the value is
handed back in `bvResult` and nothing else changes is the model's choice (notes/assumptions/11), here as for
every primitive. -/
def Obligations.LengthAndEqualityOfBitVectors : Prop :=
  ∀ (a b : Bits) (s : State),
    exec (.bvLength a) s = .next { s with bvResult := some (.nat a.length) } ∧
    ∃ e, exec (.bvEq a b) s = .next { s with bvResult := some (.bool e) } ∧
      (e = true ↔ a.length = b.length ∧ ∀ i < a.length, a[i]? = b[i]?)

/-- R116: the length, the bits of each operand in order, and the numeric value with the left operand less
significant; nothing else changes. -/
def Obligations.ConcatPutsTheLeftOperandFirst : Prop :=
  ∀ (a b : Bits) (s : State),
    ∃ r, exec (.bvConcat a b) s = .next { s with bvResult := some (.bits r) } ∧
      r.length = a.length + b.length ∧ (∀ i < a.length, r[i]? = a[i]?) ∧
      (∀ j < b.length, r[a.length + j]? = b[j]?) ∧
      toUnsigned r = toUnsigned a + 2 ^ a.length * toUnsigned b

/-- R117: the half-open slice, or the contract violation (`start > end` included, decision D12); nothing else
changes. -/
def Obligations.SliceIsHalfOpenOrRefused : Prop :=
  ∀ (v : Bits) (b e : Nat) (s : State),
    (b ≤ e ∧ e ≤ v.length →
      ∃ w, exec (.bvSlice v b e) s = .next { s with bvResult := some (.bits w) } ∧ w.length = e - b ∧
        ∀ j < e - b, w[j]? = v[b + j]?) ∧
    (e < b ∨ v.length < e → exec (.bvSlice v b e) s = .refused .sliceOutOfBounds)

/-! ### The exchange: engine, latency stage, partitioner -/

/-- A frame whose opcode is `OP_NOP` is refused where the block is asked to emit it (R221), and no step of the
machine, from any state, ever adds an exchange that carries one (R220). -/
def Obligations.NoStepEmitsANopFrame : Prop :=
  (∀ (rest : Bits) (n skip : Nat) (wlen : Option Nat) (s : State), granted s = true →
    xstart (opcodeBits s.cfg.opNop ++ rest) n skip wlen s = .refused .nopFrame) ∧
  ∀ s t : State, step s = .next t → nopExchanges s.cfg t.history = nopExchanges s.cfg s.history

/-- R133, R57: in `TX` the bits of the frame leave in index order, one a step, whatever the inputs are, and
nothing but `TXI` and the `tx_bit` port changes. -/
def Obligations.TransmissionIsInIndexOrder : Prop :=
  ∀ (s : State) (xs : List Inputs) (rest : List Move),
    s.eng.ph = .tx → xs ≠ [] → s.eng.txi + xs.length ≤ s.eng.txbuf.length →
      runFor xs.length (withScript s (xs.map .tick ++ rest)) =
        .next (withScript
          { s with
            eng := { s.eng with txi := s.eng.txi + xs.length }
            ports := { s.ports with txBit := s.eng.txbuf[s.eng.txi + xs.length - 1]? } } rest)

/-- R135 under the oracle peer (R146): in `RX` each step samples one bit of the environment's choice, at most
as many as were requested, and nothing but the engine changes. -/
def Obligations.ReceptionSamplesTheRequestedBits : Prop :=
  ∀ (s : State) (xs : List Inputs) (rest : List Move),
    s.eng.ph = .rx → s.env.answer = [] → xs.length ≤ s.eng.rxn →
      ∃ e, runFor xs.length (withScript s (xs.map .tick ++ rest)) =
          .next (withScript { s with eng := e } rest) ∧
        e = (xs.map (·.rxBit)).foldl (fun e b => sampleBit b e) s.eng ∧
        e.ph = .rx ∧ e.rxbuf = s.eng.rxbuf ++ xs.map (·.rxBit) ∧ e.rxn = s.eng.rxn - xs.length

/-- R144: fed any response of `skip + m * wlen` bits, the latency stage and the partitioner end with exactly
the words of the normative whole-response cut of R143, with nothing left over. -/
def Obligations.PartitionerAgreesWithTheWholeResponse : Prop :=
  ∀ (e : Engine) (skip wlen m : Nat) (r : Bits),
    1 ≤ wlen → e.skip = skip → e.wlen = some wlen → e.wacc = [] → e.xq = [] → e.rxbuf = [] →
    r.length = skip + m * wlen →
      responseWords r skip wlen m = some (r.foldl (fun e b => sampleBit b e) e).xq ∧
      (r.foldl (fun e b => sampleBit b e) e).skip = 0 ∧
      (r.foldl (fun e b => sampleBit b e) e).wacc = [] ∧
      (r.foldl (fun e b => sampleBit b e) e).rxbuf = r

/-- R141: the value of a dropped bit is never read. Two responses that differ only in the bits to be dropped
leave the same words completed, the same word in assembly and the same count still to drop. -/
def Obligations.DroppedBitsLeaveNoTrace : Prop :=
  ∀ (e : Engine) (r r' : Bits),
    r.length = r'.length → r.drop e.skip = r'.drop e.skip →
      (r.foldl (fun e b => sampleBit b e) e).xq = (r'.foldl (fun e b => sampleBit b e) e).xq ∧
      (r.foldl (fun e b => sampleBit b e) e).wacc = (r'.foldl (fun e b => sampleBit b e) e).wacc ∧
      (r.foldl (fun e b => sampleBit b e) e).skip = (r'.foldl (fun e b => sampleBit b e) e).skip

/-- R138, R139, R259: a link failure or an abort ends an exchange in `TX` or `RX`, whatever was sent or sampled of
it, with its outcome and discards its buffers, with the peer left as `peerCut` gives it (R70 (c), D21; the oracle
peer as it was); and both are simply absent while no exchange is in progress. R164, R188, R207: the block's next
step ends the command with that outcome as its status, no data, no further exchange and nothing else changed.
How a discard is written (`TXI` back to 0, the buffers empty, `RXN`, `SKIP` and `WLEN` kept), where the outcome
waits, what is left of the answer and that the return is a step of its own are the model's choices
(notes/assumptions/13, 8, 9, 18). -/
def Obligations.LinkEventsEndTheExchangeOrAreAbsent : Prop :=
  ∀ (s : State) (j : Nat) (rest : List Move),
    (s.env.peer = .oracle → peerCut s.cfg s.eng j s.env.peer = some .oracle) ∧
    (∀ p, s.eng.ph ≠ .idle → peerCut s.cfg s.eng j s.env.peer = some p →
      step (withScript s (.linkFail j :: rest)) =
        .next (withScript
          (exchangeEnded { s with eng := discard s.eng, env := { s.env with peer := p, answer := [] } }
            .transportError) rest) ∧
      step (withScript s (.linkAbort j :: rest)) =
        .next (withScript
          (exchangeEnded { s with eng := discard s.eng, env := { s.env with peer := p, answer := [] } }
            .cancelled) rest)) ∧
    (s.eng.ph = .idle →
      step (withScript s (.linkFail j :: rest)) = .next (withScript s rest) ∧
      step (withScript s (.linkAbort j :: rest)) = .next (withScript s rest)) ∧
    (∀ x : Inputs, s.busy = true → s.eng.ph = .idle →
      (s.eng.outcome = some .transportError →
        step (withScript s (.tick x :: rest)) =
          .next (withScript
            (returnedAtOnce { s with eng := { s.eng with outcome := none } } s.cmd .transportError .nothing)
            rest)) ∧
      (s.eng.outcome = some .cancelled →
        step (withScript s (.tick x :: rest)) =
          .next (withScript
            (returnedAtOnce { s with eng := { s.eng with outcome := none } } s.cmd .cancelled .nothing)
            rest)))

/-- The model's choice (notes/assumptions/22): the move `silence` leaves the whole state as it is, any number of
times. In `TX` and `RX` it is the silent link of R147 and R305, on which the command in progress does not return.
In `IDLE`, with a command pending or an outcome waiting, the block's own step needs no link and those rules do
not speak: there the move only says that the block has not taken its step yet. -/
def Obligations.ASilentLinkChangesNothing : Prop :=
  ∀ (s : State) (k : Nat) (rest : List Move),
    runFor k (withScript s (List.replicate k .silence ++ rest)) = .next (withScript s rest)

/-! ### Frames at the peer -/

/-- A SIZE frame received (R171): the exchange goes on to `RX` with the peer committed to its widths (R67, the
reference peer) or to nothing (R146, the oracle peer); with no bit requested it ends at once (R134). That the
end of `TX` and the peer's part are one step and that the answer is a list fixed there are the model's choices
(notes/assumptions/18, 9), here and for the frames below. -/
def Obligations.ASizeFrameAsksForTheWidths : Prop :=
  ∀ s : State, frameSent s = true →
    (0 < s.eng.rxn → s.env.peer = .oracle → exec .size s = .next (receiving s [])) ∧
    (∀ paw pdw m, 0 < s.eng.rxn → s.env.peer = .reference paw pdw m →
      exec .size s = .next (receiving s
        (none :: (natToBits paw s.cfg.fieldBits ++ natToBits pdw s.cfg.fieldBits).map some))) ∧
    (s.eng.rxn = 0 → exec .size s = .next (exchangeEnded s (.ok [])))

/-- A READ frame received (R192): under the reference peer one word of draws, then the words from the address
on (R68); under the oracle peer nothing is committed (R146). The single step and the list are the model's
(notes/assumptions/18, 9). -/
def Obligations.AReadFrameAsksForTheWordsFromItsAddress : Prop :=
  ∀ (s : State) (a : Nat), frameSent s = true →
    (0 < s.eng.rxn → s.env.peer = .oracle → exec (.readFrame a) s = .next (receiving s [])) ∧
    (∀ paw pdw m n, 0 < s.eng.rxn → 1 ≤ pdw → s.eng.rxn = (n + 1) * pdw →
      s.env.peer = .reference paw pdw m →
      exec (.readFrame a) s = .next (receiving s
        (List.replicate pdw none ++
          ((memRead paw pdw m a n).flatMap fun w => natToBits w pdw).map some))) ∧
    (s.eng.rxn = 0 → exec (.readFrame a) s = .next (exchangeEnded s (.ok [])))

/-- A WRITE frame received (R210): the reference peer's memory takes the words (R69), the oracle peer has none;
no bit being requested, the exchange ends at once (R134, R206). The single step is the model's
(notes/assumptions/18). -/
def Obligations.AWriteFrameStoresItsWords : Prop :=
  ∀ (s : State) (a : Nat) (ws : List Nat), frameSent s = true →
    (s.eng.rxn = 0 → s.env.peer = .oracle →
      exec (.writeFrame a ws) s = .next (exchangeEnded s (.ok []))) ∧
    (∀ paw pdw m, s.eng.rxn = 0 → s.env.peer = .reference paw pdw m →
      exec (.writeFrame a ws) s =
        .next (exchangeEnded
          { s with env := { s.env with peer := .reference paw pdw (memWrite paw m a ws) } } (.ok []))) ∧
    (0 < s.eng.rxn → s.env.peer = .oracle → exec (.writeFrame a ws) s = .next (receiving s [])) ∧
    (∀ paw pdw m, 0 < s.eng.rxn → s.env.peer = .reference paw pdw m →
      exec (.writeFrame a ws) s =
        .next (receiving
          { s with env := { s.env with peer := .reference paw pdw (memWrite paw m a ws) } } []))

/-- A NOP frame received (R222, R70 (b)): the peer changes nothing and every requested bit is a draw. That this
is the meaning of the row NOP (notes/assumptions/17) and the single step (18) are the model's choices. -/
def Obligations.ANopFrameIsIgnoredByThePeer : Prop :=
  ∀ s : State, frameSent s = true →
    (0 < s.eng.rxn → exec .nop s = .next (receiving s [])) ∧
    (s.eng.rxn = 0 → exec .nop s = .next (exchangeEnded s (.ok [])))

/-- R70 (c): a WRITE frame cut in `TX`, by a link failure or by an abort, leaves a prefix of its words written,
of any length the environment picks (that the length is the event's argument: notes/assumptions/23); any other
frame cut in `TX`, and whatever exchange is cut in `RX`, leaves the memory as it was. -/
def Obligations.ACutWriteAppliesAPrefix : Prop :=
  ∀ (s : State) (j paw pdw : Nat) (m : Memory) (rest : List Move), s.env.peer = .reference paw pdw m →
    ∀ e ∈ [Move.linkFail j, Move.linkAbort j],
      (∀ i, s.eng.ph = .tx → decodeFrame s.cfg (some (paw, pdw)) s.eng.txbuf = .ok i →
        ∃ t, step (withScript s (e :: rest)) = .next t ∧
          (∀ a ws, i = .writeFrame a ws →
            t.env.peer = .reference paw pdw (memWrite paw m a (ws.take j))) ∧
          ((∀ a ws, i ≠ .writeFrame a ws) → t.env.peer = .reference paw pdw m)) ∧
      (s.eng.ph = .rx →
        ∃ t, step (withScript s (e :: rest)) = .next t ∧ t.env.peer = .reference paw pdw m)

/-- R69, R70 (a): on the reference peer's memory a read of the cells just written gives the words written, as
long as they do not wrap onto themselves; and a write changes no cell outside the addresses
`(a + i) mod 2^PAW` of its words. -/
def Obligations.AWriteIsReadBackAndLeavesOtherCellsAlone : Prop :=
  ∀ (paw pdw a : Nat) (m : Memory) (ws : List Nat),
    (ws.length ≤ 2 ^ paw → memRead paw pdw (memWrite paw m a ws) a ws.length = ws) ∧
    ∀ b, (∀ i < ws.length, b ≠ (a + i) % 2 ^ paw) →
      memCell pdw (memWrite paw m a ws) b = memCell pdw m b

/-! ### Width discovery -/

/-- R161 steps 1 to 3, R162: a granted INITIALIZE on an Uninitialized instance starts exactly one exchange,
the 2-bit SIZE frame with `SIZE_RESP_BITS` bits requested. R163: on a Ready or Dead instance it is refused. The
latch and the single step are the model's choices (notes/assumptions/15, 18). -/
def Obligations.InitializeStartsTheSizeExchangeOrIsRefused : Prop :=
  ∀ s : State, s.cfg.legal = true → granted s = true →
    (s.lc = .uninitialized →
      exec .initCmd s =
        .next (exchangeStarted s { s.cmd with op := some .initCmd, addr := none, count := none, wq := [] }
          (natToBits s.cfg.opSize.toNat 2) s.cfg.sizeRespBits 1 s.cfg.fieldBits)) ∧
    (s.lc ≠ .uninitialized → exec .initCmd s = .refused .initializeNotUninitialized)

/-- R161 whole, R164 to R167, R137: for every answer of the transport, whatever its length, a granted
INITIALIZE run by the bit-step machine returns with the status, lifecycle, widths and events of the
call-level rule. A failure comes before the first bit here (LinkEventsEndTheExchangeOrAreAbsent has the others);
the number of moves counts the model's steps (notes/assumptions/18). -/
def Obligations.InitializeRunsAsTheCallLevelRuleSays : Prop :=
  ∀ (s : State) (c : Caller) (answer : LinkAnswer) (rest : List Move),
    s.cfg.legal = true → granted s = true → s.owner = some c → s.lc = .uninitialized →
    s.env.peer = .oracle →
      ∃ t res u, exec .initCmd s = .next t ∧
        callInit s.cfg .uninitialized answer = .returns res ∧
        runFor (exchangeMoves 2 s.cfg.sizeRespBits answer).length
          (withScript t (exchangeMoves 2 s.cfg.sizeRespBits answer ++ rest)) = .next u ∧
        returnedAs s c res u ∧ u.env.script = rest

/-- R165 to R168 at the call level: a response of one skip bit of any value and two fields is Ready with those
widths when both are at least 1, and Dead with `ConfigurationError` when either is 0. -/
def Obligations.WidthFieldsDecideReadyOrDead : Prop :=
  ∀ (c : Config) (skipBit : Bool) (aw dw : Nat), c.legal = true →
    aw < 2 ^ c.fieldBits → dw < 2 ^ c.fieldBits →
      ∃ ev, callInit c .uninitialized
          (.bits (skipBit :: (natToBits aw c.fieldBits ++ natToBits dw c.fieldBits))) =
        .returns
          (if aw = 0 ∨ dw = 0 then ⟨.dead, none, .configurationError, .nothing, ev⟩
            else ⟨.ready, some (aw, dw), .ok, .nothing, ev⟩)

/-- R66, R67: on the reference peer INITIALIZE ends Ready with the peer's own widths, whatever the environment
draws for the skip bit and its other inputs. The count of steps is the model's (notes/assumptions/18). -/
def Obligations.InitializeDiscoversTheReferencePeersWidths : Prop :=
  ∀ (s : State) (paw pdw : Nat) (m : Memory) (xs : List Inputs) (rest : List Move),
    s.cfg.legal = true → granted s = true → s.lc = .uninitialized →
    s.env.peer = .reference paw pdw m → peerWf s.cfg.fieldBits s.env.peer = true →
    xs.length = s.cfg.sizeRespBits + 5 →
      ∃ t u, exec .initCmd s = .next t ∧
        runFor xs.length (withScript t (xs.map .tick ++ rest)) = .next u ∧
        u.lc = .ready ∧ u.aw = some paw ∧ u.dw = some pdw ∧ u.status = some .ok ∧
        u.busy = false ∧ u.env.peer = .reference paw pdw m ∧ u.env.script = rest

/-- R170: SIZEQ on a Ready instance returns the stored pair; no exchange starts and nothing else changes. That
the latch leaves the operand registers of a command without operands empty is the model's choice
(notes/assumptions/15), here and below. -/
def Obligations.SizeqReturnsTheStoredWidths : Prop :=
  ∀ (s : State) (aw dw : Nat), granted s = true → s.lc = .ready → s.aw = some aw → s.dw = some dw →
    exec .sizeqCmd s =
      .next (returnedAtOnce s { s.cmd with op := some .sizeqCmd, addr := none, count := none, wq := [] }
        .ok (.widths aw dw))

/-- R255: outside Ready, SIZEQ, READ and WRITE end with `NotInitialized` before any operand is looked at, start
no exchange and change nothing but the return and the latch; a granted INITIALIZE that goes on does not end so.
What the latch leaves in the registers of operands a command lacks (notes/assumptions/15) and that grant, check
and return are one step (18) are the model's choices. -/
def Obligations.CommandsOutsideReadyAreNotInitialized : Prop :=
  ∀ s : State, granted s = true →
    (s.lc ≠ .ready →
      exec .sizeqCmd s =
        .next (returnedAtOnce s { s.cmd with op := some .sizeqCmd, addr := none, count := none, wq := [] }
          .notInitialized .nothing) ∧
      (∀ a n, exec (.readCmd a n) s =
        .next (returnedAtOnce s { s.cmd with op := some .readCmd, addr := some a, count := some n, wq := [] }
          .notInitialized .nothing)) ∧
      (∀ a ws, exec (.writeCmd a ws) s =
        .next (returnedAtOnce s
          { s.cmd with
            op := some .writeCmd, addr := some a, count := some ws.length, wq := ws.map wordValue }
          .notInitialized .nothing))) ∧
    ∀ t, exec .initCmd s = .next t → t.status = s.status ∧ t.busy = true

/-! ### READ -/

/-- R181 steps 1 to 5c, R185, R186, R187 for sub-transfer 0: a granted, valid READ starts the exchange of
opcode and address, requests one word more than it reads, and skips that word. Nothing but the command
registers, the engine, `xchg_start` and the history changes. The latch and the single step are the model's
choices (notes/assumptions/15, 18). -/
def Obligations.ReadStartsItsFirstExchange : Prop :=
  ∀ (s : State) (aw dw a n : Nat),
    s.cfg.legal = true → granted s = true → s.lc = .ready → s.aw = some aw → s.dw = some dw →
    a < 2 ^ aw → 1 ≤ n → (∀ q ∈ plan s.cfg.chunkWords a n, q.1 < 2 ^ aw) →
      exec (.readCmd a n) s =
        .next (exchangeStarted s
          { op := some .readCmd, addr := some a, count := some n, wq := [], rq := [], ki := 0, doneWords := 0 }
          (natToBits s.cfg.opRead.toNat 2 ++ natToBits a aw)
          ((firstCount s.cfg.chunkWords n + 1) * dw) dw dw)

/-- R185, R186, R187: every exchange any step starts for a READ, whichever sub-transfer it is, sends opcode and
start address and nothing else, requests one word more than it reads, and loads the latency stage with `DW`, so
that the first `DW` bits sampled, whatever they are, leave no bit and no word in the partitioner. -/
def Obligations.EveryReadExchangeSkipsItsFirstWord : Prop :=
  ∀ s t : State, step s = .next t → s.eng.ph = .idle → t.eng.ph ≠ .idle → t.cmd.op = some .readCmd →
    ∃ aw dw a n q, t.aw = some aw ∧ t.dw = some dw ∧ t.cmd.addr = some a ∧ t.cmd.count = some n ∧
      (plan t.cfg.chunkWords a n)[t.cmd.ki]? = some q ∧
      t.eng.txbuf = natToBits t.cfg.opRead.toNat 2 ++ natToBits q.1 aw ∧ t.eng.txbuf.length = 2 + aw ∧
      t.eng.rxn = (q.2 + 1) * dw ∧ t.eng.skip = dw ∧ t.eng.wlen = some dw ∧
      t.history.getLast? = some (.xchg t.eng.txbuf t.eng.rxn) ∧
      ∀ g : Bits, g.length = dw →
        (g.foldl (fun e b => sampleBit b e) t.eng).skip = 0 ∧
        (g.foldl (fun e b => sampleBit b e) t.eng).wacc = [] ∧
        (g.foldl (fun e b => sampleBit b e) t.eng).xq = []

/-- R183, R232: READ ends with `OutOfRange` and starts no exchange when its first address does not fit, when it
asks for no word, or when it is cut into sub-transfers and the start address of one of them does not fit; and
only start addresses count, since an unchunked READ that runs past the top is sent. The latch and the single
step are the model's choices (notes/assumptions/15, 18). -/
def Obligations.ReadOutOfRangeSendsNothing : Prop :=
  ∀ (s : State) (aw dw a n : Nat),
    s.cfg.legal = true → granted s = true → s.lc = .ready → s.aw = some aw → s.dw = some dw →
      (2 ^ aw ≤ a ∨ n < 1 →
        exec (.readCmd a n) s =
          .next (returnedAtOnce s { s.cmd with op := some .readCmd, addr := some a, count := some n, wq := [] }
            .outOfRange .nothing)) ∧
      (a < 2 ^ aw → 1 ≤ n → startsEncodable aw (plan s.cfg.chunkWords a n) = false →
        exec (.readCmd a n) s =
          .next (returnedAtOnce s { s.cmd with op := some .readCmd, addr := some a, count := some n, wq := [] }
            .outOfRange .nothing)) ∧
      (a < 2 ^ aw → 1 ≤ n → s.cfg.chunkWords = none →
        ∃ t f, exec (.readCmd a n) s = .next t ∧ t.history = s.history ++ [.xchg f ((n + 1) * dw)])

/-- R181 whole, with the latency stage, the partitioner, chunking, cancellation and failures (R137, R188, R189,
R190, R233, R240, R241, R243): for every plan and every choice of answers and cancel samples, a granted valid
READ run by the bit-step machine returns as the call-level rule says. A failure comes before the first bit of
its exchange here (LinkEventsEndTheExchangeOrAreAbsent has the others); the number of moves counts the model's
steps (notes/assumptions/18). -/
def Obligations.ReadRunsAsTheCallLevelRuleSays : Prop :=
  ∀ (s : State) (c : Caller) (aw dw a n : Nat) (envs : List SubEnv) (rest : List Move),
    s.cfg.legal = true → granted s = true → s.owner = some c → s.lc = .ready →
    s.aw = some aw → s.dw = some dw → 1 ≤ dw → s.env.peer = .oracle →
    readInRange aw a n = true → startsEncodable aw (plan s.cfg.chunkWords a n) = true →
    envs.length = (plan s.cfg.chunkWords a n).length →
      ∃ t res u, exec (.readCmd a n) s = .next t ∧
        callRead s.cfg aw dw a n envs = .returns res ∧
        runFor (transferMoves (fun _ => 2 + aw) (fun k => (k + 1) * dw) true
            (plan s.cfg.chunkWords a n) envs).length
          (withScript t (transferMoves (fun _ => 2 + aw) (fun k => (k + 1) * dw) true
            (plan s.cfg.chunkWords a n) envs ++ rest)) = .next u ∧
        returnedAs s c res u ∧ u.env.script = rest

/-- R187, R189, R190 at the call level: when sub-transfer `k` is answered with any word of garbage followed by
the words `wss[k]` (every response of the requested length is of that form), the READ returns `OK` with exactly
those words in order, none of the garbage, and `LC`, `AW`, `DW` as they were. In a legal configuration they are
`count` words, and the caller sees a single word when `count = 1` and the sequence otherwise. -/
def Obligations.ReadReturnsTheWordsAfterTheGarbage : Prop :=
  ∀ (c : Config) (aw dw a n : Nat) (gs : List Bits) (wss : List (List Nat)),
    1 ≤ dw → readInRange aw a n = true → startsEncodable aw (plan c.chunkWords a n) = true →
    gs.length = wss.length → wss.map List.length = (plan c.chunkWords a n).map (·.2) →
    (∀ g ∈ gs, g.length = dw) → (∀ ws ∈ wss, ∀ w ∈ ws, w < 2 ^ dw) →
      (∃ ev, callRead c aw dw a n
          (List.zipWith (fun g ws => ⟨false, .bits (g ++ ws.flatMap fun w => natToBits w dw)⟩) gs wss) =
        .returns ⟨.ready, some (aw, dw), .ok, .words wss.flatten, ev⟩) ∧
      (c.legal = true →
        wss.flatten.length = n ∧
        (n = 1 → ∃ w, wss.flatten = [w] ∧ readResult wss.flatten = .single w) ∧
        (n ≠ 1 → readResult wss.flatten = .sequence wss.flatten))

/-- R68, R181 on the reference peer: an unchunked READ returns `OK` with the memory's words from its address on,
whatever the environment draws for the skip word. The count of steps is the model's (notes/assumptions/18). -/
def Obligations.ReadOnTheReferencePeerReturnsItsMemory : Prop :=
  ∀ (s : State) (c : Caller) (aw dw a n : Nat) (m : Memory) (xs : List Inputs) (rest : List Move),
    s.cfg.legal = true → s.cfg.chunkWords = none → granted s = true → s.owner = some c → s.lc = .ready →
    s.aw = some aw → s.dw = some dw → 1 ≤ dw → s.env.peer = .reference aw dw m → memWf aw dw m = true →
    a < 2 ^ aw → 1 ≤ n → xs.length = 2 + aw + (n + 1) * dw + 3 →
      ∃ t u, exec (.readCmd a n) s = .next t ∧
        runFor xs.length (withScript t (xs.map .tick ++ rest)) = .next u ∧
        u.status = some .ok ∧ u.ports.ret = some (some c, .ok, .words (memRead aw dw m a n)) ∧
        u.busy = false ∧ u.lc = .ready ∧ u.aw = some aw ∧ u.dw = some dw ∧
        u.env.peer = .reference aw dw m ∧ u.env.script = rest

/-! ### WRITE -/

/-- R201 steps 1 to 5c, R205, R206 for sub-transfer 0: a granted, valid WRITE starts the exchange of opcode,
address and the words of the sub-transfer in order, and requests no bit. A vector word is sent as it is
(R209 (h)). Nothing but the command registers, the engine, `xchg_start` and the history changes. The emptied
`RQ` and the single step are the model's choices (notes/assumptions/28, 18). -/
def Obligations.WriteStartsItsFirstExchange : Prop :=
  ∀ (s : State) (aw dw a : Nat) (ws : List WriteWord),
    s.cfg.legal = true → granted s = true → s.lc = .ready → s.aw = some aw → s.dw = some dw →
    a < 2 ^ aw → ws ≠ [] → (∀ n, .uint n ∈ ws → n < 2 ^ dw) → (∀ v, .vec v ∈ ws → v.length = dw) →
    (∀ q ∈ plan s.cfg.chunkWords a ws.length, q.1 < 2 ^ aw) →
      exec (.writeCmd a ws) s =
        .next (exchangeStarted s
          { op := some .writeCmd, addr := some a, count := some ws.length, wq := ws.map wordValue,
            rq := [], ki := 0, doneWords := 0 }
          (natToBits s.cfg.opWrite.toNat 2 ++ natToBits a aw ++
            (ws.take (firstCount s.cfg.chunkWords ws.length)).flatMap fun w =>
              match w with
              | .uint n => natToBits n dw
              | .vec v => v)
          0 0 dw)

/-- R203, R232: WRITE ends with `OutOfRange` and starts no exchange when its address does not fit, it has no
word, any word of it, even of a later sub-transfer, does not fit, or it is cut into sub-transfers and the start
address of one of them does not fit; and only start addresses count. That all is one step is the model's choice
(notes/assumptions/18). -/
def Obligations.WriteOutOfRangeSendsNothing : Prop :=
  ∀ (s : State) (aw dw a : Nat) (ws : List WriteWord),
    s.cfg.legal = true → granted s = true → s.lc = .ready → s.aw = some aw → s.dw = some dw →
      (2 ^ aw ≤ a ∨ ws = [] ∨ (∃ n, .uint n ∈ ws ∧ 2 ^ dw ≤ n) ∨ (∃ v, .vec v ∈ ws ∧ v.length ≠ dw) →
        exec (.writeCmd a ws) s =
          .next (returnedAtOnce s
            { s.cmd with
              op := some .writeCmd, addr := some a, count := some ws.length, wq := ws.map wordValue }
            .outOfRange .nothing)) ∧
      (a < 2 ^ aw → ws ≠ [] → (∀ w ∈ ws, wordFits dw w = true) →
        startsEncodable aw (plan s.cfg.chunkWords a ws.length) = false →
          exec (.writeCmd a ws) s =
            .next (returnedAtOnce s
              { s.cmd with
                op := some .writeCmd, addr := some a, count := some ws.length, wq := ws.map wordValue }
              .outOfRange .nothing)) ∧
      (a < 2 ^ aw → ws ≠ [] → (∀ w ∈ ws, wordFits dw w = true) → s.cfg.chunkWords = none →
        ∃ t f, exec (.writeCmd a ws) s = .next t ∧ t.history = s.history ++ [.xchg f 0])

/-- R201 whole, with chunking, cancellation and failures (R207, R208, R233, R240, R241, R243): for every plan
and every choice of answers and cancel samples, a granted valid WRITE run by the bit-step machine returns as
the call-level rule says. A failure comes before the first bit of its exchange here
(LinkEventsEndTheExchangeOrAreAbsent has the others); the number of moves counts the model's steps
(notes/assumptions/18). -/
def Obligations.WriteRunsAsTheCallLevelRuleSays : Prop :=
  ∀ (s : State) (c : Caller) (aw dw a : Nat) (ws : List WriteWord) (envs : List SubEnv) (rest : List Move),
    s.cfg.legal = true → granted s = true → s.owner = some c → s.lc = .ready →
    s.aw = some aw → s.dw = some dw → s.env.peer = .oracle →
    writeInRange aw dw a ws = true → startsEncodable aw (plan s.cfg.chunkWords a ws.length) = true →
    envs.length = (plan s.cfg.chunkWords a ws.length).length →
      ∃ t res u, exec (.writeCmd a ws) s = .next t ∧
        callWrite s.cfg aw dw a ws envs = .returns res ∧
        runFor (transferMoves (fun k => 2 + aw + k * dw) (fun _ => 0) true
            (plan s.cfg.chunkWords a ws.length) envs).length
          (withScript t (transferMoves (fun k => 2 + aw + k * dw) (fun _ => 0) true
            (plan s.cfg.chunkWords a ws.length) envs ++ rest)) = .next u ∧
        returnedAs s c res u ∧ u.env.script = rest

/-- R69, R201 on the reference peer: an unchunked WRITE returns `OK` and leaves its words in the memory. The
count of steps is the model's (notes/assumptions/18). -/
def Obligations.WriteOnTheReferencePeerStoresItsWords : Prop :=
  ∀ (s : State) (c : Caller) (aw dw a : Nat) (ws : List WriteWord) (m : Memory) (xs : List Inputs)
    (rest : List Move),
    s.cfg.legal = true → s.cfg.chunkWords = none → granted s = true → s.owner = some c → s.lc = .ready →
    s.aw = some aw → s.dw = some dw → 1 ≤ dw → s.env.peer = .reference aw dw m →
    writeInRange aw dw a ws = true → xs.length = 2 + aw + ws.length * dw + 2 →
      ∃ t u, exec (.writeCmd a ws) s = .next t ∧
        runFor xs.length (withScript t (xs.map .tick ++ rest)) = .next u ∧
        u.status = some .ok ∧ u.ports.ret = some (some c, .ok, .nothing) ∧ u.busy = false ∧
        u.lc = .ready ∧ u.aw = some aw ∧ u.dw = some dw ∧
        u.env.peer = .reference aw dw (memWrite aw m a (ws.map wordValue)) ∧ u.env.script = rest

/-! ### Sub-transfers -/

/-- R231, R232: the plan of a chunked command covers its words in order in `K = ceil(n / C)` sub-transfers, all
full but the last, and every start address is encodable exactly when the last one is. -/
def Obligations.ThePlanCoversTheCommand : Prop :=
  ∀ a n c aw : Nat, 1 ≤ c → c < n →
    ∃ k, (plan (some c) a n).length = k ∧ 2 ≤ k ∧ (k - 1) * c < n ∧ n ≤ k * c ∧
      ((plan (some c) a n).map (·.2)).sum = n ∧
      (∀ j < k, ∃ m, (plan (some c) a n)[j]? = some (a + j * c, m) ∧ 1 ≤ m ∧ m ≤ c ∧ (j + 1 < k → m = c)) ∧
      (startsEncodable aw (plan (some c) a n) = true ↔ a + (k - 1) * c < 2 ^ aw)

/-- R234: a READ of `n` words in `K` sub-transfers requests `(n + K) * DW` bits in all, a WRITE sends
`K * (2 + AW) + n * DW` bits. -/
def Obligations.ChunkingCostsOneWordPerSubTransfer : Prop :=
  ∀ (chunkWords : Option Nat) (a n aw dw : Nat), chunkWords ≠ some 0 →
    ((plan chunkWords a n).map fun q => (q.2 + 1) * dw).sum = (n + (plan chunkWords a n).length) * dw ∧
    ((plan chunkWords a n).map fun q => 2 + aw + q.2 * dw).sum =
      (plan chunkWords a n).length * (2 + aw) + n * dw

/-- R235: on the reference peer's memory the sub-transfers of any chunk size read the words, and leave the
memory, of the unchunked command. -/
def Obligations.ChunkedAndUnchunkedTransfersAgree : Prop :=
  ∀ (chunkWords : Option Nat) (paw pdw a : Nat) (m : Memory) (ws : List Nat), chunkWords ≠ some 0 →
    (plan chunkWords a ws.length).flatMap (fun q => memRead paw pdw m q.1 q.2) =
      memRead paw pdw m a ws.length ∧
    (plan chunkWords a ws.length).foldl
        (fun m q => memWrite paw m q.1 ((ws.drop (q.1 - a)).take q.2)) m =
      memWrite paw m a ws

/-- R240, R241, R243: at a between-chunks point the block reports `DONE_WORDS` and samples `cancel_req` once;
true ends the command `Cancelled` with no exchange started and no data, false starts the exchange of the next
sub-transfer. That all of this is one step is the model's choice (notes/assumptions/18). -/
def Obligations.TheBetweenChunksPointReportsThenCancelsOrGoesOn : Prop :=
  ∀ (s : State) (x : Inputs) (rest : List Move),
    inv s = true → s.busy = true → s.eng.ph = .idle → s.eng.outcome = none →
      (x.cancelReq = true →
        step (withScript s (.tick x :: rest)) =
          .next (withScript
            (returnedAtOnce
              { s with
                ports := { s.ports with progress := some s.cmd.doneWords }
                history := s.history ++ [.progress s.cmd.doneWords] }
              s.cmd .cancelled .nothing) rest)) ∧
      (x.cancelReq = false →
        ∃ i n skip wlen f, currentExchange s = some (i, n, skip, wlen) ∧
          encode s.cfg (s.aw.getD 0) (s.dw.getD 0) i = some f ∧
          step (withScript s (.tick x :: rest)) =
            .next (withScript
              (exchangeStarted
                { s with
                  ports := { s.ports with progress := some s.cmd.doneWords }
                  history := s.history ++ [.progress s.cmd.doneWords] }
                s.cmd f n skip wlen) rest))

/-- R240: `cancel_req` is sampled at between-chunks points and nowhere else, and not latched: in any other
state the step is the same whatever its value. -/
def Obligations.CancelRequestIsSampledNowhereElse : Prop :=
  ∀ (s : State) (x y : Inputs) (rest : List Move),
    x.rxBit = y.rxBit → x.pick = y.pick →
    ¬(s.busy = true ∧ s.eng.ph = .idle ∧ s.eng.outcome = none) →
      step (withScript s (.tick x :: rest)) = step (withScript s (.tick y :: rest))

/-- R148, R253: exactly the named exchanges happen. INITIALIZE starts the one SIZE exchange. The exchanges a
call-level READ or WRITE starts are, in order, those of the first sub-transfers of its plan: payload by payload
the frame of sub-transfer 0, 1, ... with the response bits that sub-transfer requests, all of the plan when it
returns `OK` and none when it returns `OutOfRange`. So none is repeated. -/
def Obligations.ExactlyTheNamedExchangesHappen : Prop :=
  ∀ (c : Config) (aw dw a n : Nat) (ws : List WriteWord) (answer : LinkAnswer) (envs : List SubEnv)
    (res : CallResult),
    (callInit c .uninitialized answer = .returns res →
      exchangeCount res.events = 1 ∧
      exchangesOf res.events = [(natToBits c.opSize.toNat 2, c.sizeRespBits)]) ∧
    (callRead c aw dw a n envs = .returns res →
      exchangeCount res.events ≤ (plan c.chunkWords a n).length ∧
      (res.status = .ok → exchangeCount res.events = (plan c.chunkWords a n).length) ∧
      (res.status = .outOfRange → exchangeCount res.events = 0) ∧
      (exchangesOf res.events).map some =
        ((plan c.chunkWords a n).take (exchangeCount res.events)).map fun q =>
          (encode c aw dw (.readFrame q.1)).map fun f => (f, (q.2 + 1) * dw)) ∧
    (callWrite c aw dw a ws envs = .returns res →
      exchangeCount res.events ≤ (plan c.chunkWords a ws.length).length ∧
      (res.status = .ok → exchangeCount res.events = (plan c.chunkWords a ws.length).length) ∧
      (res.status = .outOfRange → exchangeCount res.events = 0) ∧
      (exchangesOf res.events).map some =
        ((plan c.chunkWords a ws.length).take (exchangeCount res.events)).map fun q =>
          (encode c aw dw (.writeFrame q.1 (((ws.map wordValue).drop (q.1 - a)).take q.2))).map fun f => (f, 0))

/-! ### Exclusion between callers -/

/-- R271, R274: a presented command joins `PENDING` and changes nothing else; a caller that already waits is
refused. That it joins at the end of a list is the model's choice (notes/assumptions/20). -/
def Obligations.APresentedCommandIsHeld : Prop :=
  ∀ (s : State) (c : Caller) (cmd : Command) (rest : List Move),
    (s.owner ≠ some c → (∀ p ∈ s.pending, p.1 ≠ c) →
      step (withScript s (.call c cmd :: rest)) =
        .next (withScript
          { s with pending := s.pending ++ [(c, cmd)], history := s.history ++ [.call c cmd] } rest)) ∧
    (s.owner = some c ∨ (∃ p ∈ s.pending, p.1 = c) →
      step (withScript s (.call c cmd :: rest)) = .refused .callerReentry)

/-- R271: while a command is in progress the held commands make no step; they stay pending, and the exclusion
stays with its owner. `PENDING` is a set in the spec (R38): that it is a list in order of arrival, to whose end
new commands are added, is the model's choice (notes/assumptions/20). -/
def Obligations.HeldCommandsMakeNoStep : Prop :=
  ∀ s t : State, s.busy = true → step s = .next t → t.busy = true →
    t.owner = s.owner ∧ ∃ more, t.pending = s.pending ++ more

/-- R270, R273: any pending command can be the one granted, with the exclusion then held by its caller. That the
command's rule runs in the same step (notes/assumptions/18) and that the input picks a place in a list (20) are
the model's choices. -/
def Obligations.AnyPendingCommandCanBeGranted : Prop :=
  ∀ (s : State) (k : Nat) (c : Caller) (cmd : Command) (rest : List Move),
    s.busy = false → s.eng.ph = .idle → s.pending[k]? = some (c, cmd) →
      ∃ x, step (withScript s (.tick x :: rest)) =
        exec cmd.toInstr
          { withScript s rest with
            pending := s.pending.eraseIdx k
            busy := true
            owner := some c
            history := s.history ++ [.grant c] }

/-- R131, R270, S6 of spec/95_test_vectors.md: no two commands and no two exchanges of the instance ever
overlap. Every step of a state whose history is so keeps it so. -/
def Obligations.TheHistoryServesOneCommandAtATime : Prop :=
  ∀ s t : State, inv s = true → historyOk s = true → step s = .next t → historyOk t = true

/-! ### Steps -/

/-- A step at the end of `TX` (R134) runs the instruction the frame decodes to (the decoder of R103). That the
frame is executed in that step is the model's choice (notes/assumptions/14, 18). -/
def Obligations.AStepRunsTheFrameItReceives : Prop :=
  ∀ (s : State) (x : Inputs) (i : Instr) (rest : List Move),
    s.eng.ph = .tx → s.eng.txi = s.eng.txbuf.length →
    decodeFrame s.cfg (frameWidths s) s.eng.txbuf = .ok i →
      step (withScript s (.tick x :: rest)) = exec i (withScript s rest)

/-- A step on an idle block grants the pending command it picks (R270) and runs it, and the evaluation of a
primitive runs that primitive. That one step grants and runs (notes/assumptions/14, 18), that the pick is a place
in a list (20) and how a primitive comes to be run (11) are the model's choices. -/
def Obligations.AStepRunsTheCommandItGrants : Prop :=
  ∀ (s : State) (x : Inputs) (k : Nat) (c : Caller) (cmd : Command) (p : Primitive) (rest : List Move),
    (s.busy = false → s.eng.ph = .idle → pickPending x.pick s = some (k, c, cmd) →
      step (withScript s (.tick x :: rest)) = exec cmd.toInstr (grant k c (withScript s rest))) ∧
    step (withScript s (.evaluate p :: rest)) = exec p.toInstr (withScript s rest)

/-! ### Lifecycle, failures, reset -/

/-- The invariant of the machine holds at reset. The configuration reset is stated with is the model's choice
(notes/assumptions/1, 2, 3, 4). -/
def Obligations.TheInvariantHoldsAtReset : Prop :=
  inv State.reset = true ∧ historyOk State.reset = true

/-- Every step keeps the invariant: legal configuration, canonical peer memory, exclusion (R25), widths exactly
in Ready (R23), and the engine's registers always those of the current sub-transfer, with the words completed
and the word in assembly exactly the bits sampled after the skip (R34, R36, R136, R144). -/
def Obligations.EveryStepKeepsTheInvariant : Prop :=
  ∀ s t : State, inv s = true → step s = .next t → inv t = true

/-- R121, R220, R258: from a state that meets the invariant no step faults, no NOP frame is asked for, and a
BitVector contract violation comes only from a primitive evaluated on its own, never from a command. -/
def Obligations.ContractViolationsAreUnreachable : Prop :=
  ∀ s : State, inv s = true →
    (∀ f, step s ≠ .fault f) ∧ step s ≠ .refused .nopFrame ∧
    ((∀ p, (takeMove s).1 ≠ .evaluate p) →
      step s ≠ .refused .domainError ∧ step s ≠ .refused .sliceOutOfBounds)

/-- R21, R23, R166, R167: `LC`, `AW` and `DW` change only by reset, or when INITIALIZE ends on an Uninitialized
instance: to Ready with `OK`, both decoded fields at least 1 and both widths written together, or to Dead with
`ConfigurationError` and no width when a field is 0. Reset leaves `Uninitialized`. The lifecycle value `Dead`
is the spec's decision D6 (R22) and reset as an event its decision D22 (R290). -/
def Obligations.OnlyInitializeAndResetChangeTheLifecycle : Prop :=
  State.reset.lc = .uninitialized ∧
  ∀ s t : State, inv s = true → step s = .next t → (t.lc ≠ s.lc ∨ t.aw ≠ s.aw ∨ t.dw ≠ s.dw) →
    ((takeMove s).1 = .reset ∧ t.lc = .uninitialized ∧ t.aw = none ∧ t.dw = none) ∨
    (s.lc = .uninitialized ∧ s.busy = true ∧ s.cmd.op = some .initCmd ∧ ∃ aw dw, s.eng.xq = [aw, dw] ∧
      ((1 ≤ aw ∧ 1 ≤ dw ∧ t.lc = .ready ∧ t.aw = some aw ∧ t.dw = some dw ∧ t.status = some .ok ∧
          t.ports.ret = some (s.owner, .ok, .nothing)) ∨
        ((aw = 0 ∨ dw = 0) ∧ t.lc = .dead ∧ t.aw = none ∧ t.dw = none ∧
          t.status = some .configurationError ∧ t.ports.ret = some (s.owner, .configurationError, .nothing))))

/-- R262, R263, R272: the state after a command ends, by status. Whatever the status, the exclusion is released,
`STATUS` and the `ret` port are written and `PH` is idle; a failure returns no data; only `ConfigurationError`
changes the lifecycle; `OK` returns what its command returns. The last clause reads the command from `CMD_OP`
and `CMD_COUNT` after the return: that these keep their content is the model's choice
(notes/assumptions/13). -/
def Obligations.AReturnLeavesWhatItsStatusSays : Prop :=
  ∀ (s t : State) (o : Option Caller) (st : Status) (d : RetData),
    inv s = true → step s = .next t → .ret o st d ∈ t.history.drop s.history.length →
      t.busy = false ∧ t.owner = none ∧ t.eng.ph = .idle ∧ t.status = some st ∧
      t.ports.ret = some (o, st, d) ∧ o.isSome = true ∧
      (st ≠ .ok → d = .nothing) ∧
      (st ≠ .ok → st ≠ .configurationError → t.lc = s.lc ∧ t.aw = s.aw ∧ t.dw = s.dw) ∧
      (st = .notInitialized → t.lc ≠ .ready ∧ t.aw = none ∧ t.dw = none) ∧
      (st = .configurationError → s.lc = .uninitialized ∧ t.lc = .dead ∧ t.aw = none ∧ t.dw = none) ∧
      (st = .ok →
        (t.cmd.op = some .initCmd ∧ s.lc = .uninitialized ∧ t.lc = .ready ∧ t.aw.isSome = true ∧
          t.dw.isSome = true ∧ d = .nothing) ∨
        (t.lc = .ready ∧ s.lc = .ready ∧ t.aw = s.aw ∧ t.dw = s.dw ∧
          ((t.cmd.op = some .sizeqCmd ∧ ∃ aw dw, t.aw = some aw ∧ t.dw = some dw ∧ d = .widths aw dw) ∨
            (t.cmd.op = some .readCmd ∧ ∃ ws, d = .words ws ∧ t.cmd.count = some ws.length) ∨
            (t.cmd.op = some .writeCmd ∧ d = .nothing))))

/-- R256: a port command that ends in the step that granted it starts no exchange: its return is the only event
and the engine is as it was. And `NotInitialized` and `OutOfRange` come from no other step: whenever a step of
the machine returns one of them, the same step granted the command, so no exchange of it has started. That
grant, checks and return are one step is the model's choice (notes/assumptions/18); R256 says that no exchange
occurs. -/
def Obligations.FailedValidationSendsNothing : Prop :=
  (∀ (s t : State) (cmd : Command), granted s = true → exec cmd.toInstr s = .next t → t.busy = false →
    ∃ st d, t.history = s.history ++ [.ret s.owner st d] ∧ t.eng = s.eng ∧ t.env = s.env ∧
      t.ports.xchgStart = s.ports.xchgStart) ∧
  ∀ (s t : State) (o : Option Caller) (st : Status) (d : RetData), step s = .next t →
    .ret o st d ∈ t.history.drop s.history.length → st = .notInitialized ∨ st = .outOfRange →
      s.busy = false ∧ t.eng = s.eng ∧ t.ports.xchgStart = s.ports.xchgStart ∧
      ∃ c, t.history = s.history ++ [.grant c, .ret (some c) st .nothing]

/-- R8, R20, R24, R66: no step changes the configuration, `MODULE_ID`, or what stands behind the link and its
widths. -/
def Obligations.TheConfigurationIsConstant : Prop :=
  ∀ s t : State, step s = .next t →
    t.cfg = s.cfg ∧
    (s.env.peer = .oracle → t.env.peer = .oracle) ∧
    (∀ paw pdw m, s.env.peer = .reference paw pdw m → ∃ m', t.env.peer = .reference paw pdw m')

/-- R290, R291, R292: a reset of an idle instance puts every register at its value of R42 and leaves the
configuration and the peer; a reset while a command is in progress or pending is refused. What the output
ports, the model's own registers and the event history hold afterwards is the model's choice
(notes/assumptions/5, 6, 8, 9, 11). -/
def Obligations.ResetIsReconstructionWhenIdle : Prop :=
  ∀ (s : State) (rest : List Move),
    (s.busy = false → s.pending = [] →
      step (withScript s (.reset :: rest)) =
        .next
          { cfg := s.cfg, lc := .uninitialized, aw := none, dw := none, busy := false, owner := none,
            pending := [], status := none,
            cmd := { op := none, addr := none, count := none, wq := [], rq := [], ki := 0, doneWords := 0 },
            eng :=
              { ph := .idle, txbuf := [], txi := 0, rxn := 0, rxbuf := [], skip := 0, wlen := none,
                wacc := [], xq := [], outcome := none },
            ports := { txBit := none, xchgStart := none, progress := none, ret := none },
            env := { peer := s.env.peer, answer := [], script := rest, draws := s.env.draws },
            history := s.history, bvResult := none }) ∧
    (s.busy = true ∨ s.pending ≠ [] →
      step (withScript s (.reset :: rest)) = .refused .resetWhileBusy)

/-- R251: the six status codes, and that 6 and 7 stand for none. -/
def Obligations.StatusCodesAreNumberedInTheTaxonomysOrder : Prop :=
  [Status.ok, .configurationError, .notInitialized, .outOfRange, .cancelled, .transportError].map
      (fun st => (statusCode st).toNat) = [0, 1, 2, 3, 4, 5] ∧
  (∀ st, statusOfCode (statusCode st) = some st) ∧
  statusOfCode 6 = none ∧ statusOfCode 7 = none
end

