-- ==== Sys2Proof/Laws/BitVector.lean ====
section
/-! SUPPORT. The laws of the bit helpers that commands, frames and the partitioner rest on
(spec/40_bitvector.md R113 to R118). -/

namespace Sys2Proof.Laws

open Machine

@[simp] theorem natToBits_length (x w : Nat) : (natToBits x w).length = w := by
  induction w generalizing x with
  | zero => rfl
  | succ w ih => simp [natToBits, ih]

theorem natToBits_getElem (x w i : Nat) (h : i < w) : (natToBits x w)[i]? = some (bitOf x i) := by
  induction w generalizing x i with
  | zero => omega
  | succ w ih =>
    cases i with
    | zero => simp [natToBits, bitOf]
    | succ i =>
      rw [natToBits, List.getElem?_cons_succ, ih _ _ (by omega)]
      simp [bitOf, Nat.div_div_eq_div_mul, pow_succ, Nat.mul_comm]

@[simp] theorem toUnsigned_nil : toUnsigned [] = 0 := rfl
@[simp] theorem toUnsigned_cons (b : Bool) (v : Bits) : toUnsigned (b :: v) = b.toNat + 2 * toUnsigned v := rfl

theorem toUnsigned_lt (v : Bits) : toUnsigned v < 2 ^ v.length := by
  induction v with
  | nil => simp
  | cons b v ih =>
    have hb : b.toNat ≤ 1 := Bool.toNat_le b
    simp only [toUnsigned_cons, List.length_cons, pow_succ]
    omega

/-- Decoding what the encoder placed gives the value back when it fits. -/
theorem toUnsigned_natToBits {x w : Nat} (h : x < 2 ^ w) : toUnsigned (natToBits x w) = x := by
  induction w generalizing x with
  | zero => simp at h; simp [natToBits, h]
  | succ w ih =>
    have h2 : x / 2 < 2 ^ w := by rw [pow_succ] at h; omega
    have hb : (x % 2 == 1).toNat = x % 2 := by
      rcases Nat.mod_two_eq_zero_or_one x with h0 | h0 <;> simp [h0]
    simp only [natToBits, toUnsigned_cons, ih h2, hb]
    omega

/-- Encoding what was decoded gives the bits back. -/
theorem natToBits_toUnsigned (v : Bits) : natToBits (toUnsigned v) v.length = v := by
  induction v with
  | nil => rfl
  | cons b v ih =>
    have h1 : (b.toNat + 2 * toUnsigned v) % 2 = b.toNat := by
      have := Bool.toNat_le b; omega
    have h2 : (b.toNat + 2 * toUnsigned v) / 2 = toUnsigned v := by
      have := Bool.toNat_le b; omega
    simp only [toUnsigned_cons, List.length_cons, natToBits, h1, h2, ih]
    cases b <;> rfl

theorem natToBits_toUnsigned_of_length {v : Bits} {w : Nat} (h : v.length = w) :
    natToBits (toUnsigned v) w = v := h ▸ natToBits_toUnsigned v

theorem natToBits_inj {x y w : Nat} (hx : x < 2 ^ w) (hy : y < 2 ^ w) (h : natToBits x w = natToBits y w) :
    x = y := by
  rw [← toUnsigned_natToBits hx, h, toUnsigned_natToBits hy]

/-- `from_unsigned` on a natural: what it gives, and exactly when. -/
theorem fromUnsigned_nat (x w : Nat) :
    fromUnsigned x w = if x < 2 ^ w then some (natToBits x w) else none := by
  have h : ((2 : Int) ^ w ≤ (x : Int)) ↔ ¬ x < 2 ^ w := by
    rw [Nat.not_lt]; exact_mod_cast Iff.rfl
  have h0 : ¬ (x : Int) < 0 := by omega
  unfold fromUnsigned
  by_cases hx : x < 2 ^ w <;> simp [h0, h, hx]

theorem fromUnsigned_fits {x w : Nat} (h : x < 2 ^ w) : fromUnsigned x w = some (natToBits x w) := by
  rw [fromUnsigned_nat, if_pos h]

/-- Opcodes always fit their two bits (R162). -/
theorem fromUnsigned_opcode (op : BitVec 2) : fromUnsigned op.toNat 2 = some (opcodeBits op) :=
  fromUnsigned_fits op.isLt

@[simp] theorem opcodeBits_length (op : BitVec 2) : (opcodeBits op).length = 2 := natToBits_length _ _

theorem opcodeBits_inj {a b : BitVec 2} (h : opcodeBits a = opcodeBits b) : a = b :=
  BitVec.eq_of_toNat_eq (natToBits_inj a.isLt b.isLt h)

/-- The words of a WRITE frame at `dw` bits each, when they all fit. -/
theorem encodeWords_fits {dw : Nat} {ws : List Nat} (h : ∀ w ∈ ws, w < 2 ^ dw) :
    encodeWords dw ws = some (ws.flatMap fun w => natToBits w dw) := by
  induction ws with
  | nil => rfl
  | cons w ws ih =>
    rw [encodeWords, fromUnsigned_fits (h w (by simp)), ih fun x hx => h x (by simp [hx])]
    rfl

/-- The READ frame of an address that fits. -/
theorem encode_readFrame {aw a : Nat} (h : a < 2 ^ aw) (c : Config) (dw : Nat) :
    encode c aw dw (.readFrame a) = some (opcodeBits c.opRead ++ natToBits a aw) := by
  simp only [encode, encodeHead, fromUnsigned_opcode, fromUnsigned_fits h, bitConcat]

/-- The WRITE frame of an address and words that fit. -/
theorem encode_writeFrame {aw dw a : Nat} {ws : List Nat} (h : a < 2 ^ aw) (hw : ∀ w ∈ ws, w < 2 ^ dw)
    (c : Config) :
    encode c aw dw (.writeFrame a ws)
      = some (opcodeBits c.opWrite ++ natToBits a aw ++ ws.flatMap fun w => natToBits w dw) := by
  simp only [encode, encodeHead, fromUnsigned_opcode, fromUnsigned_fits h, encodeWords_fits hw, bitConcat]

/-- The SIZE frame. -/
theorem encode_size (c : Config) (aw dw : Nat) : encode c aw dw .size = some (opcodeBits c.opSize) :=
  fromUnsigned_opcode _

theorem flatMap_natToBits_length (ws : List Nat) (dw : Nat) :
    (ws.flatMap fun w => natToBits w dw).length = ws.length * dw := by
  induction ws with
  | nil => simp
  | cons w ws ih => simp [ih, Nat.add_mul, Nat.add_comm]

/-- `slice` within bounds. -/
theorem bitSlice_eq {v : Bits} {s e : Nat} (h : s ≤ e) (he : e ≤ v.length) :
    bitSlice v s e = some ((v.drop s).take (e - s)) := by
  simp [bitSlice, h, he]

/-- When `slice` answers, the bounds hold and the length is their difference. -/
theorem bitSlice_some {v w : Bits} {s e : Nat} (h : bitSlice v s e = some w) :
    s ≤ e ∧ e ≤ v.length ∧ w = (v.drop s).take (e - s) ∧ w.length = e - s := by
  unfold bitSlice at h
  split at h
  · rename_i hc
    cases h
    refine ⟨hc.1, hc.2, rfl, ?_⟩
    simp only [List.length_take, List.length_drop]
    omega
  · cases h

end Sys2Proof.Laws
end

