-- ==== Sys2Proof/Laws/Memory.lean ====
section
/-! SUPPORT. The reference peer's memory: every operation keeps the canonical form, and a store is read
back and leaves every other cell alone. -/

namespace Sys2Proof.Laws

open Machine

@[simp] theorem memLookup_store_same (m : Memory) (a w : Nat) : memLookup (memStore m a w) a = some w := by
  induction m with
  | nil => simp [memStore, memLookup]
  | cons q m ih =>
    obtain ⟨k, v⟩ := q
    simp only [memStore]
    split
    · simp [memLookup]
    · split
      · simp [memLookup]
      · rename_i h; simp [memLookup, h, ih]

theorem memLookup_store_other (m : Memory) {a b : Nat} (h : b ≠ a) (w : Nat) :
    memLookup (memStore m a w) b = memLookup m b := by
  induction m with
  | nil => simp [memStore, memLookup, h]
  | cons q m ih =>
    obtain ⟨k, v⟩ := q
    simp only [memStore]
    split
    · simp [memLookup, h]
    · split
      · rename_i hk; subst hk; simp [memLookup, h]
      · simp only [memLookup, ih]

theorem memRisingFrom_mono {lo lo' : Nat} (h : lo' ≤ lo) {m : Memory} (hm : memRisingFrom lo m = true) :
    memRisingFrom lo' m = true := by
  cases m with
  | nil => rfl
  | cons q m =>
    simp only [memRisingFrom, Bool.and_eq_true, decide_eq_true_eq] at hm ⊢
    exact ⟨le_trans h hm.1, hm.2⟩

theorem memStore_rising {lo : Nat} {m : Memory} {a : Nat} (w : Nat) (ha : lo ≤ a)
    (hm : memRisingFrom lo m = true) : memRisingFrom lo (memStore m a w) = true := by
  induction m generalizing lo with
  | nil => simp [memStore, memRisingFrom, ha]
  | cons q m ih =>
    obtain ⟨k, v⟩ := q
    simp only [memRisingFrom, Bool.and_eq_true, decide_eq_true_eq] at hm
    simp only [memStore]
    split
    · rename_i hk
      simp only [memRisingFrom, Bool.and_eq_true, decide_eq_true_eq]
      exact ⟨ha, by omega, hm.2⟩
    · split
      · rename_i hk
        subst hk
        simp only [memRisingFrom, Bool.and_eq_true, decide_eq_true_eq]
        exact hm
      · simp only [memRisingFrom, Bool.and_eq_true, decide_eq_true_eq]
        exact ⟨hm.1, ih (by omega) hm.2⟩

theorem memStore_mem {m : Memory} {a w : Nat} {q : Nat × Nat} (h : q ∈ memStore m a w) :
    q = (a, w) ∨ q ∈ m := by
  induction m with
  | nil => simpa [memStore] using h
  | cons p m ih =>
    obtain ⟨k, v⟩ := p
    simp only [memStore] at h
    split at h
    · simpa using h
    · split at h
      · rcases List.mem_cons.1 h with h | h
        · exact .inl h
        · exact .inr (List.mem_cons_of_mem _ h)
      · rcases List.mem_cons.1 h with h | h
        · exact .inr (by simp [h])
        · rcases ih h with h | h
          · exact .inl h
          · exact .inr (List.mem_cons_of_mem _ h)

/-- A store keeps the canonical form. -/
theorem memStore_wf {paw pdw : Nat} {m : Memory} {a w : Nat} (ha : a < 2 ^ paw) (hw : w < 2 ^ pdw)
    (hm : memWf paw pdw m = true) : memWf paw pdw (memStore m a w) = true := by
  simp only [memWf, Bool.and_eq_true, List.all_eq_true, decide_eq_true_eq] at hm ⊢
  refine ⟨memStore_rising w (Nat.zero_le _) hm.1, fun q hq => ?_⟩
  rcases memStore_mem hq with rfl | hq
  · exact ⟨ha, hw⟩
  · exact hm.2 q hq

/-- `MemWrite` keeps the canonical form. -/
theorem memWrite_wf {paw pdw : Nat} {m : Memory} {a : Nat} {ws : List Nat} (hw : ∀ w ∈ ws, w < 2 ^ pdw)
    (hm : memWf paw pdw m = true) : memWf paw pdw (memWrite paw m a ws) = true := by
  induction ws generalizing m a with
  | nil => exact hm
  | cons w ws ih =>
    exact ih (fun x hx => hw x (List.mem_cons_of_mem _ hx))
      (memStore_wf (Nat.mod_lt _ (Nat.two_pow_pos _)) (hw w (by simp)) hm)

/-- Reset has the oracle peer, which has no memory: the canonical form holds there. -/
theorem peerWf_reset : peerWf State.reset.cfg.fieldBits State.reset.env.peer = true := rfl

@[simp] theorem memRead_length (paw pdw : Nat) (m : Memory) (a n : Nat) : (memRead paw pdw m a n).length = n := by
  induction n generalizing a with
  | zero => rfl
  | succ n ih => simp [memRead, ih]

theorem memCell_lt {paw pdw : Nat} {m : Memory} (hm : memWf paw pdw m = true) (a : Nat) :
    memCell pdw m a < 2 ^ pdw := by
  have key : ∀ m : Memory, (∀ q ∈ m, q.2 < 2 ^ pdw) → memCell pdw m a < 2 ^ pdw := by
    intro m
    induction m with
    | nil => intro _; simpa [memCell, memLookup] using Nat.mod_lt _ (Nat.two_pow_pos pdw)
    | cons q m ih =>
      intro h
      obtain ⟨k, v⟩ := q
      by_cases hk : a = k
      · simpa [memCell, memLookup, hk] using h (k, v) (by simp)
      · have := ih fun q hq => h q (List.mem_cons_of_mem _ hq)
        simpa [memCell, memLookup, hk] using this
  simp only [memWf, Bool.and_eq_true, List.all_eq_true, decide_eq_true_eq] at hm
  exact key m fun q hq => (hm.2 q hq).2

end Sys2Proof.Laws
end

