-- ==== Sys2Proof/Laws/State.lean ====
section
/-! SUPPORT. What each state update leaves and writes, field by field, so that no later proof unfolds a
record update. -/

namespace Sys2Proof.Laws

open Machine

/-! `record` -/

@[simp] theorem record_cfg (e : Event) (s : State) : (record e s).cfg = s.cfg := rfl
@[simp] theorem record_lc (e : Event) (s : State) : (record e s).lc = s.lc := rfl
@[simp] theorem record_aw (e : Event) (s : State) : (record e s).aw = s.aw := rfl
@[simp] theorem record_dw (e : Event) (s : State) : (record e s).dw = s.dw := rfl
@[simp] theorem record_busy (e : Event) (s : State) : (record e s).busy = s.busy := rfl
@[simp] theorem record_owner (e : Event) (s : State) : (record e s).owner = s.owner := rfl
@[simp] theorem record_pending (e : Event) (s : State) : (record e s).pending = s.pending := rfl
@[simp] theorem record_status (e : Event) (s : State) : (record e s).status = s.status := rfl
@[simp] theorem record_cmd (e : Event) (s : State) : (record e s).cmd = s.cmd := rfl
@[simp] theorem record_eng (e : Event) (s : State) : (record e s).eng = s.eng := rfl
@[simp] theorem record_ports (e : Event) (s : State) : (record e s).ports = s.ports := rfl
@[simp] theorem record_env (e : Event) (s : State) : (record e s).env = s.env := rfl
@[simp] theorem record_history (e : Event) (s : State) : (record e s).history = s.history ++ [e] := rfl
@[simp] theorem record_bvResult (e : Event) (s : State) : (record e s).bvResult = s.bvResult := rfl

/-! `release` -/

@[simp] theorem release_cfg (st : Status) (d : RetData) (s : State) : (release st d s).cfg = s.cfg := rfl
@[simp] theorem release_lc (st : Status) (d : RetData) (s : State) : (release st d s).lc = s.lc := rfl
@[simp] theorem release_aw (st : Status) (d : RetData) (s : State) : (release st d s).aw = s.aw := rfl
@[simp] theorem release_dw (st : Status) (d : RetData) (s : State) : (release st d s).dw = s.dw := rfl
@[simp] theorem release_busy (st : Status) (d : RetData) (s : State) : (release st d s).busy = false := rfl
@[simp] theorem release_owner (st : Status) (d : RetData) (s : State) : (release st d s).owner = none := rfl
@[simp] theorem release_pending (st : Status) (d : RetData) (s : State) :
    (release st d s).pending = s.pending := rfl
@[simp] theorem release_status (st : Status) (d : RetData) (s : State) :
    (release st d s).status = some st := rfl
@[simp] theorem release_cmd (st : Status) (d : RetData) (s : State) : (release st d s).cmd = s.cmd := rfl
@[simp] theorem release_eng (st : Status) (d : RetData) (s : State) :
    (release st d s).eng = { s.eng with ph := .idle, outcome := none } := rfl
@[simp] theorem release_ports (st : Status) (d : RetData) (s : State) :
    (release st d s).ports = { s.ports with ret := some (s.owner, st, d) } := rfl
@[simp] theorem release_env (st : Status) (d : RetData) (s : State) : (release st d s).env = s.env := rfl
@[simp] theorem release_history (st : Status) (d : RetData) (s : State) :
    (release st d s).history = s.history ++ [.ret s.owner st d] := rfl
@[simp] theorem release_bvResult (st : Status) (d : RetData) (s : State) :
    (release st d s).bvResult = s.bvResult := rfl

/-! `raiseFailure` -/

@[simp] theorem raiseFailure_cfg (k : Status) (s : State) : (raiseFailure k s).cfg = s.cfg := rfl
@[simp] theorem raiseFailure_lc (k : Status) (s : State) : (raiseFailure k s).lc = s.lc := rfl
@[simp] theorem raiseFailure_aw (k : Status) (s : State) : (raiseFailure k s).aw = s.aw := rfl
@[simp] theorem raiseFailure_dw (k : Status) (s : State) : (raiseFailure k s).dw = s.dw := rfl
@[simp] theorem raiseFailure_busy (k : Status) (s : State) : (raiseFailure k s).busy = false := rfl
@[simp] theorem raiseFailure_owner (k : Status) (s : State) : (raiseFailure k s).owner = none := rfl
@[simp] theorem raiseFailure_pending (k : Status) (s : State) : (raiseFailure k s).pending = s.pending := rfl
@[simp] theorem raiseFailure_status (k : Status) (s : State) : (raiseFailure k s).status = some k := rfl
@[simp] theorem raiseFailure_cmd (k : Status) (s : State) : (raiseFailure k s).cmd = s.cmd := rfl
@[simp] theorem raiseFailure_eng (k : Status) (s : State) :
    (raiseFailure k s).eng = { s.eng with ph := .idle, outcome := none } := rfl
@[simp] theorem raiseFailure_ports (k : Status) (s : State) :
    (raiseFailure k s).ports = { s.ports with ret := some (s.owner, k, .nothing) } := rfl
@[simp] theorem raiseFailure_env (k : Status) (s : State) : (raiseFailure k s).env = s.env := rfl
@[simp] theorem raiseFailure_history (k : Status) (s : State) :
    (raiseFailure k s).history = s.history ++ [.ret s.owner k .nothing] := rfl
@[simp] theorem raiseFailure_bvResult (k : Status) (s : State) :
    (raiseFailure k s).bvResult = s.bvResult := rfl

/-! `grant` -/

@[simp] theorem grant_cfg (i : Nat) (c : Caller) (s : State) : (grant i c s).cfg = s.cfg := rfl
@[simp] theorem grant_lc (i : Nat) (c : Caller) (s : State) : (grant i c s).lc = s.lc := rfl
@[simp] theorem grant_aw (i : Nat) (c : Caller) (s : State) : (grant i c s).aw = s.aw := rfl
@[simp] theorem grant_dw (i : Nat) (c : Caller) (s : State) : (grant i c s).dw = s.dw := rfl
@[simp] theorem grant_busy (i : Nat) (c : Caller) (s : State) : (grant i c s).busy = true := rfl
@[simp] theorem grant_owner (i : Nat) (c : Caller) (s : State) : (grant i c s).owner = some c := rfl
@[simp] theorem grant_pending (i : Nat) (c : Caller) (s : State) :
    (grant i c s).pending = s.pending.eraseIdx i := rfl
@[simp] theorem grant_status (i : Nat) (c : Caller) (s : State) : (grant i c s).status = s.status := rfl
@[simp] theorem grant_cmd (i : Nat) (c : Caller) (s : State) : (grant i c s).cmd = s.cmd := rfl
@[simp] theorem grant_eng (i : Nat) (c : Caller) (s : State) : (grant i c s).eng = s.eng := rfl
@[simp] theorem grant_ports (i : Nat) (c : Caller) (s : State) : (grant i c s).ports = s.ports := rfl
@[simp] theorem grant_env (i : Nat) (c : Caller) (s : State) : (grant i c s).env = s.env := rfl
@[simp] theorem grant_history (i : Nat) (c : Caller) (s : State) :
    (grant i c s).history = s.history ++ [.grant c] := rfl
@[simp] theorem grant_bvResult (i : Nat) (c : Caller) (s : State) : (grant i c s).bvResult = s.bvResult := rfl

/-! `loadExchange` -/

@[simp] theorem loadExchange_cfg (p : Bits) (n k : Nat) (w : Option Nat) (s : State) :
    (loadExchange p n k w s).cfg = s.cfg := rfl
@[simp] theorem loadExchange_lc (p : Bits) (n k : Nat) (w : Option Nat) (s : State) :
    (loadExchange p n k w s).lc = s.lc := rfl
@[simp] theorem loadExchange_aw (p : Bits) (n k : Nat) (w : Option Nat) (s : State) :
    (loadExchange p n k w s).aw = s.aw := rfl
@[simp] theorem loadExchange_dw (p : Bits) (n k : Nat) (w : Option Nat) (s : State) :
    (loadExchange p n k w s).dw = s.dw := rfl
@[simp] theorem loadExchange_busy (p : Bits) (n k : Nat) (w : Option Nat) (s : State) :
    (loadExchange p n k w s).busy = s.busy := rfl
@[simp] theorem loadExchange_owner (p : Bits) (n k : Nat) (w : Option Nat) (s : State) :
    (loadExchange p n k w s).owner = s.owner := rfl
@[simp] theorem loadExchange_pending (p : Bits) (n k : Nat) (w : Option Nat) (s : State) :
    (loadExchange p n k w s).pending = s.pending := rfl
@[simp] theorem loadExchange_status (p : Bits) (n k : Nat) (w : Option Nat) (s : State) :
    (loadExchange p n k w s).status = s.status := rfl
@[simp] theorem loadExchange_cmd (p : Bits) (n k : Nat) (w : Option Nat) (s : State) :
    (loadExchange p n k w s).cmd = s.cmd := rfl
@[simp] theorem loadExchange_eng (p : Bits) (n k : Nat) (w : Option Nat) (s : State) :
    (loadExchange p n k w s).eng = { ph := .tx, txbuf := p, txi := 0, rxn := n, rxbuf := [], skip := k, wlen := w, wacc := [], xq := [], outcome := none } := rfl
@[simp] theorem loadExchange_ports (p : Bits) (n k : Nat) (w : Option Nat) (s : State) :
    (loadExchange p n k w s).ports = { s.ports with xchgStart := some (s.cfg.moduleId, p, n) } := rfl
@[simp] theorem loadExchange_env (p : Bits) (n k : Nat) (w : Option Nat) (s : State) :
    (loadExchange p n k w s).env = s.env := rfl
@[simp] theorem loadExchange_history (p : Bits) (n k : Nat) (w : Option Nat) (s : State) :
    (loadExchange p n k w s).history = s.history ++ [.xchg p n] := rfl
@[simp] theorem loadExchange_bvResult (p : Bits) (n k : Nat) (w : Option Nat) (s : State) :
    (loadExchange p n k w s).bvResult = s.bvResult := rfl

/-! `beginTransfer` -/

@[simp] theorem beginTransfer_cfg (s : State) : (beginTransfer s).cfg = s.cfg := rfl
@[simp] theorem beginTransfer_lc (s : State) : (beginTransfer s).lc = s.lc := rfl
@[simp] theorem beginTransfer_aw (s : State) : (beginTransfer s).aw = s.aw := rfl
@[simp] theorem beginTransfer_dw (s : State) : (beginTransfer s).dw = s.dw := rfl
@[simp] theorem beginTransfer_busy (s : State) : (beginTransfer s).busy = s.busy := rfl
@[simp] theorem beginTransfer_owner (s : State) : (beginTransfer s).owner = s.owner := rfl
@[simp] theorem beginTransfer_pending (s : State) : (beginTransfer s).pending = s.pending := rfl
@[simp] theorem beginTransfer_status (s : State) : (beginTransfer s).status = s.status := rfl
@[simp] theorem beginTransfer_cmd (s : State) :
    (beginTransfer s).cmd = { s.cmd with rq := [], doneWords := 0, ki := 0 } := rfl
@[simp] theorem beginTransfer_eng (s : State) : (beginTransfer s).eng = s.eng := rfl
@[simp] theorem beginTransfer_ports (s : State) : (beginTransfer s).ports = s.ports := rfl
@[simp] theorem beginTransfer_env (s : State) : (beginTransfer s).env = s.env := rfl
@[simp] theorem beginTransfer_history (s : State) : (beginTransfer s).history = s.history := rfl
@[simp] theorem beginTransfer_bvResult (s : State) : (beginTransfer s).bvResult = s.bvResult := rfl

/-! `txBitStep` -/

@[simp] theorem txBitStep_cfg (s : State) : (txBitStep s).cfg = s.cfg := rfl
@[simp] theorem txBitStep_lc (s : State) : (txBitStep s).lc = s.lc := rfl
@[simp] theorem txBitStep_aw (s : State) : (txBitStep s).aw = s.aw := rfl
@[simp] theorem txBitStep_dw (s : State) : (txBitStep s).dw = s.dw := rfl
@[simp] theorem txBitStep_busy (s : State) : (txBitStep s).busy = s.busy := rfl
@[simp] theorem txBitStep_owner (s : State) : (txBitStep s).owner = s.owner := rfl
@[simp] theorem txBitStep_pending (s : State) : (txBitStep s).pending = s.pending := rfl
@[simp] theorem txBitStep_status (s : State) : (txBitStep s).status = s.status := rfl
@[simp] theorem txBitStep_cmd (s : State) : (txBitStep s).cmd = s.cmd := rfl
@[simp] theorem txBitStep_eng (s : State) : (txBitStep s).eng = { s.eng with txi := s.eng.txi + 1 } := rfl
@[simp] theorem txBitStep_ports (s : State) :
    (txBitStep s).ports = { s.ports with txBit := s.eng.txbuf[s.eng.txi]? } := rfl
@[simp] theorem txBitStep_env (s : State) : (txBitStep s).env = s.env := rfl
@[simp] theorem txBitStep_history (s : State) : (txBitStep s).history = s.history := rfl
@[simp] theorem txBitStep_bvResult (s : State) : (txBitStep s).bvResult = s.bvResult := rfl

/-! `rxBitStep` -/

@[simp] theorem rxBitStep_cfg (b : Bool) (s : State) : (rxBitStep b s).cfg = s.cfg := rfl
@[simp] theorem rxBitStep_lc (b : Bool) (s : State) : (rxBitStep b s).lc = s.lc := rfl
@[simp] theorem rxBitStep_aw (b : Bool) (s : State) : (rxBitStep b s).aw = s.aw := rfl
@[simp] theorem rxBitStep_dw (b : Bool) (s : State) : (rxBitStep b s).dw = s.dw := rfl
@[simp] theorem rxBitStep_busy (b : Bool) (s : State) : (rxBitStep b s).busy = s.busy := rfl
@[simp] theorem rxBitStep_owner (b : Bool) (s : State) : (rxBitStep b s).owner = s.owner := rfl
@[simp] theorem rxBitStep_pending (b : Bool) (s : State) : (rxBitStep b s).pending = s.pending := rfl
@[simp] theorem rxBitStep_status (b : Bool) (s : State) : (rxBitStep b s).status = s.status := rfl
@[simp] theorem rxBitStep_cmd (b : Bool) (s : State) : (rxBitStep b s).cmd = s.cmd := rfl
@[simp] theorem rxBitStep_eng (b : Bool) (s : State) :
    (rxBitStep b s).eng = sampleBit (responseBit b s.env.answer) s.eng := rfl
@[simp] theorem rxBitStep_ports (b : Bool) (s : State) : (rxBitStep b s).ports = s.ports := rfl
@[simp] theorem rxBitStep_env (b : Bool) (s : State) :
    (rxBitStep b s).env = { s.env with answer := s.env.answer.tail } := rfl
@[simp] theorem rxBitStep_history (b : Bool) (s : State) : (rxBitStep b s).history = s.history := rfl
@[simp] theorem rxBitStep_bvResult (b : Bool) (s : State) : (rxBitStep b s).bvResult = s.bvResult := rfl

/-! `endExchange` -/

@[simp] theorem endExchange_cfg (o : XchgOutcome) (s : State) : (endExchange o s).cfg = s.cfg := rfl
@[simp] theorem endExchange_lc (o : XchgOutcome) (s : State) : (endExchange o s).lc = s.lc := rfl
@[simp] theorem endExchange_aw (o : XchgOutcome) (s : State) : (endExchange o s).aw = s.aw := rfl
@[simp] theorem endExchange_dw (o : XchgOutcome) (s : State) : (endExchange o s).dw = s.dw := rfl
@[simp] theorem endExchange_busy (o : XchgOutcome) (s : State) : (endExchange o s).busy = s.busy := rfl
@[simp] theorem endExchange_owner (o : XchgOutcome) (s : State) : (endExchange o s).owner = s.owner := rfl
@[simp] theorem endExchange_pending (o : XchgOutcome) (s : State) :
    (endExchange o s).pending = s.pending := rfl
@[simp] theorem endExchange_status (o : XchgOutcome) (s : State) : (endExchange o s).status = s.status := rfl
@[simp] theorem endExchange_cmd (o : XchgOutcome) (s : State) : (endExchange o s).cmd = s.cmd := rfl
@[simp] theorem endExchange_eng (o : XchgOutcome) (s : State) :
    (endExchange o s).eng = { s.eng with ph := .idle, outcome := some o } := rfl
@[simp] theorem endExchange_ports (o : XchgOutcome) (s : State) :
    (endExchange o s).ports = { s.ports with txBit := none } := rfl
@[simp] theorem endExchange_env (o : XchgOutcome) (s : State) : (endExchange o s).env = s.env := rfl
@[simp] theorem endExchange_history (o : XchgOutcome) (s : State) :
    (endExchange o s).history = s.history ++ [.xchgEnd o] := rfl
@[simp] theorem endExchange_bvResult (o : XchgOutcome) (s : State) :
    (endExchange o s).bvResult = s.bvResult := rfl

/-! `emitProgress` -/

@[simp] theorem emitProgress_cfg (s : State) : (emitProgress s).cfg = s.cfg := rfl
@[simp] theorem emitProgress_lc (s : State) : (emitProgress s).lc = s.lc := rfl
@[simp] theorem emitProgress_aw (s : State) : (emitProgress s).aw = s.aw := rfl
@[simp] theorem emitProgress_dw (s : State) : (emitProgress s).dw = s.dw := rfl
@[simp] theorem emitProgress_busy (s : State) : (emitProgress s).busy = s.busy := rfl
@[simp] theorem emitProgress_owner (s : State) : (emitProgress s).owner = s.owner := rfl
@[simp] theorem emitProgress_pending (s : State) : (emitProgress s).pending = s.pending := rfl
@[simp] theorem emitProgress_status (s : State) : (emitProgress s).status = s.status := rfl
@[simp] theorem emitProgress_cmd (s : State) : (emitProgress s).cmd = s.cmd := rfl
@[simp] theorem emitProgress_eng (s : State) : (emitProgress s).eng = s.eng := rfl
@[simp] theorem emitProgress_ports (s : State) :
    (emitProgress s).ports = { s.ports with progress := some s.cmd.doneWords } := rfl
@[simp] theorem emitProgress_env (s : State) : (emitProgress s).env = s.env := rfl
@[simp] theorem emitProgress_history (s : State) :
    (emitProgress s).history = s.history ++ [.progress s.cmd.doneWords] := rfl
@[simp] theorem emitProgress_bvResult (s : State) : (emitProgress s).bvResult = s.bvResult := rfl

/-! `withScript` -/

@[simp] theorem withScript_cfg (s : State) (ms : List Move) : (withScript s ms).cfg = s.cfg := rfl
@[simp] theorem withScript_lc (s : State) (ms : List Move) : (withScript s ms).lc = s.lc := rfl
@[simp] theorem withScript_aw (s : State) (ms : List Move) : (withScript s ms).aw = s.aw := rfl
@[simp] theorem withScript_dw (s : State) (ms : List Move) : (withScript s ms).dw = s.dw := rfl
@[simp] theorem withScript_busy (s : State) (ms : List Move) : (withScript s ms).busy = s.busy := rfl
@[simp] theorem withScript_owner (s : State) (ms : List Move) : (withScript s ms).owner = s.owner := rfl
@[simp] theorem withScript_pending (s : State) (ms : List Move) : (withScript s ms).pending = s.pending := rfl
@[simp] theorem withScript_status (s : State) (ms : List Move) : (withScript s ms).status = s.status := rfl
@[simp] theorem withScript_cmd (s : State) (ms : List Move) : (withScript s ms).cmd = s.cmd := rfl
@[simp] theorem withScript_eng (s : State) (ms : List Move) : (withScript s ms).eng = s.eng := rfl
@[simp] theorem withScript_ports (s : State) (ms : List Move) : (withScript s ms).ports = s.ports := rfl
@[simp] theorem withScript_env (s : State) (ms : List Move) :
    (withScript s ms).env = { s.env with script := ms } := rfl
@[simp] theorem withScript_history (s : State) (ms : List Move) : (withScript s ms).history = s.history := rfl
@[simp] theorem withScript_bvResult (s : State) (ms : List Move) :
    (withScript s ms).bvResult = s.bvResult := rfl

/-! `latch` writes the command registers only. -/

@[simp] theorem latch_cfg (c : Command) (s : State) : (latch c s).cfg = s.cfg := by
  cases c <;> rfl
@[simp] theorem latch_lc (c : Command) (s : State) : (latch c s).lc = s.lc := by
  cases c <;> rfl
@[simp] theorem latch_aw (c : Command) (s : State) : (latch c s).aw = s.aw := by
  cases c <;> rfl
@[simp] theorem latch_dw (c : Command) (s : State) : (latch c s).dw = s.dw := by
  cases c <;> rfl
@[simp] theorem latch_busy (c : Command) (s : State) : (latch c s).busy = s.busy := by
  cases c <;> rfl
@[simp] theorem latch_owner (c : Command) (s : State) : (latch c s).owner = s.owner := by
  cases c <;> rfl
@[simp] theorem latch_pending (c : Command) (s : State) : (latch c s).pending = s.pending := by
  cases c <;> rfl
@[simp] theorem latch_status (c : Command) (s : State) : (latch c s).status = s.status := by
  cases c <;> rfl
@[simp] theorem latch_eng (c : Command) (s : State) : (latch c s).eng = s.eng := by
  cases c <;> rfl
@[simp] theorem latch_ports (c : Command) (s : State) : (latch c s).ports = s.ports := by
  cases c <;> rfl
@[simp] theorem latch_env (c : Command) (s : State) : (latch c s).env = s.env := by
  cases c <;> rfl
@[simp] theorem latch_history (c : Command) (s : State) : (latch c s).history = s.history := by
  cases c <;> rfl
@[simp] theorem latch_bvResult (c : Command) (s : State) : (latch c s).bvResult = s.bvResult := by
  cases c <;> rfl

@[simp] theorem latch_rq (c : Command) (s : State) : (latch c s).cmd.rq = s.cmd.rq := by
  cases c <;> rfl
@[simp] theorem latch_ki (c : Command) (s : State) : (latch c s).cmd.ki = s.cmd.ki := by
  cases c <;> rfl
@[simp] theorem latch_doneWords (c : Command) (s : State) : (latch c s).cmd.doneWords = s.cmd.doneWords := by
  cases c <;> rfl

/-! `endTx` -/

theorem endTx_sampling {s : State} (h : 0 < s.eng.rxn) (ans : List (Option Bool)) :
    endTx ans s = { s with eng := { s.eng with ph := .rx }, ports := { s.ports with txBit := none },
                           env := { s.env with answer := ans } } := by
  simp [endTx, h]

theorem endTx_done {s : State} (h : s.eng.rxn = 0) (ans : List (Option Bool)) :
    endTx ans s = endExchange (.ok []) s := by
  simp [endTx, h]

@[simp] theorem endTx_cfg (ans : List (Option Bool)) (s : State) : (endTx ans s).cfg = s.cfg := by
  unfold endTx; split <;> rfl
@[simp] theorem endTx_lc (ans : List (Option Bool)) (s : State) : (endTx ans s).lc = s.lc := by
  unfold endTx; split <;> rfl
@[simp] theorem endTx_aw (ans : List (Option Bool)) (s : State) : (endTx ans s).aw = s.aw := by
  unfold endTx; split <;> rfl
@[simp] theorem endTx_dw (ans : List (Option Bool)) (s : State) : (endTx ans s).dw = s.dw := by
  unfold endTx; split <;> rfl
@[simp] theorem endTx_busy (ans : List (Option Bool)) (s : State) : (endTx ans s).busy = s.busy := by
  unfold endTx; split <;> rfl
@[simp] theorem endTx_owner (ans : List (Option Bool)) (s : State) : (endTx ans s).owner = s.owner := by
  unfold endTx; split <;> rfl
@[simp] theorem endTx_pending (ans : List (Option Bool)) (s : State) : (endTx ans s).pending = s.pending := by
  unfold endTx; split <;> rfl
@[simp] theorem endTx_status (ans : List (Option Bool)) (s : State) : (endTx ans s).status = s.status := by
  unfold endTx; split <;> rfl
@[simp] theorem endTx_cmd (ans : List (Option Bool)) (s : State) : (endTx ans s).cmd = s.cmd := by
  unfold endTx; split <;> rfl
@[simp] theorem endTx_bvResult (ans : List (Option Bool)) (s : State) : (endTx ans s).bvResult = s.bvResult := by
  unfold endTx; split <;> rfl

@[simp] theorem endTx_peer (ans : List (Option Bool)) (s : State) : (endTx ans s).env.peer = s.env.peer := by
  unfold endTx; split <;> rfl

/-! Scripts -/

@[simp] theorem withScript_withScript (s : State) (a b : List Move) :
    withScript (withScript s a) b = withScript s b := rfl

theorem withScript_self (s : State) : withScript s s.env.script = s := rfl

@[simp] theorem takeMove_cons (s : State) (m : Move) (rest : List Move) :
    takeMove (withScript s (m :: rest)) = (m, withScript s rest) := rfl

@[simp] theorem step_cons (s : State) (m : Move) (rest : List Move) :
    step (withScript s (m :: rest)) = stepMove m (withScript s rest) := rfl

/-- The move is taken whatever it is: a step is the effect of some move on the state with that move
consumed. -/
theorem step_eq (s : State) : step s = stepMove (takeMove s).1 (takeMove s).2 := rfl

/-- Taking a move changes the environment's script and counter only. -/
theorem takeMove_frame (s : State) :
    ∃ script draws, (takeMove s).2 = { s with env := { s.env with script := script, draws := draws } } := by
  unfold takeMove; split <;> exact ⟨_, _, rfl⟩

/-! Runs -/

@[simp] theorem runFor_zero (s : State) : runFor 0 s = .next s := rfl

theorem runFor_succ_next {s t : State} (h : step s = .next t) (k : Nat) : runFor (k + 1) s = runFor k t := by
  simp [runFor, h]

theorem runFor_add {j : Nat} {s t : State} (h : runFor j s = .next t) (k : Nat) :
    runFor (j + k) s = runFor k t := by
  induction j generalizing s with
  | zero => simp only [runFor] at h; cases h; simp
  | succ j ih =>
    rw [Nat.add_right_comm]
    simp only [runFor] at h ⊢
    split at h
    · exact ih h
    · cases h
    · cases h

end Sys2Proof.Laws
end

