-- ==== Sys2Proof/Laws/Ops.lean ====
section
/-! SUPPORT. What each shared operation can do, said once: if it answers a next state, then one of these
cases holds. Later proofs cite these lemmas and unfold nothing. -/

namespace Sys2Proof.Laws

open Machine

theorem granted_iff (s : State) :
    granted s = true ↔ s.busy = true ∧ s.eng.ph = .idle ∧ s.eng.outcome = none := by
  simp [granted, and_assoc]

theorem frameSent_iff (s : State) :
    frameSent s = true ↔ s.eng.ph = .tx ∧ s.eng.txi = s.eng.txbuf.length := by
  simp [frameSent]

@[simp] theorem granted_latch (c : Command) (s : State) : granted (latch c s) = granted s := by
  simp [granted]

@[simp] theorem granted_beginTransfer (s : State) : granted (beginTransfer s) = granted s := rfl

@[simp] theorem granted_withScript (s : State) (ms : List Move) : granted (withScript s ms) = granted s := rfl

/-- A granted state: after a grant with the engine idle and no outcome waiting. -/
theorem granted_grant {s : State} (hp : s.eng.ph = .idle) (ho : s.eng.outcome = none) (i : Nat) (c : Caller) :
    granted (grant i c s) = true := by
  simp [granted, hp, ho]

/-- XSTART answers only where its condition holds and the frame is no NOP frame, and then loads. -/
theorem xstart_next {p : Bits} {n k : Nat} {w : Option Nat} {s t : State} (h : xstart p n k w s = .next t) :
    granted s = true ∧ p.take 2 ≠ opcodeBits s.cfg.opNop ∧ t = loadExchange p n k w s := by
  unfold xstart at h
  split at h
  · rename_i hg
    split at h
    · cases h
    · rename_i hn; cases h; exact ⟨hg, hn, rfl⟩
  · cases h

/-- XSTART with its condition met. -/
theorem xstart_ok {p : Bits} {s : State} (hg : granted s = true) (hn : p.take 2 ≠ opcodeBits s.cfg.opNop)
    (n k : Nat) (w : Option Nat) : xstart p n k w s = .next (loadExchange p n k w s) := by
  simp [xstart, hg, hn]

/-- A frame that starts with another opcode than `OP_NOP`. -/
theorem take_opcode_ne {a b : BitVec 2} (h : a ≠ b) (rest : Bits) :
    (opcodeBits a ++ rest).take 2 ≠ opcodeBits b := by
  rw [List.take_append_of_le_length (by simp), List.take_of_length_le (by simp)]
  exact fun he => h (opcodeBits_inj he)

theorem startSize_next {s t : State} (h : startSize s = .next t) :
    granted s = true ∧
      t = loadExchange (opcodeBits s.cfg.opSize) s.cfg.sizeRespBits 1 (some s.cfg.fieldBits) s := by
  rw [startSize, encode_size] at h
  obtain ⟨hg, -, ht⟩ := xstart_next h
  exact ⟨hg, ht⟩

theorem startRead_next {aw dw : Nat} {q : Nat × Nat} {s t : State} (h : startRead aw dw q s = .next t) :
    granted s = true ∧
      ∃ f, encode s.cfg aw dw (.readFrame q.1) = some f ∧
        t = loadExchange f ((q.2 + 1) * dw) dw (some dw) s := by
  unfold startRead at h
  split at h
  · rename_i f hf
    obtain ⟨hg, -, ht⟩ := xstart_next h
    exact ⟨hg, f, hf, ht⟩
  · cases h

theorem startWrite_next {aw dw : Nat} {q : Nat × Nat} {s t : State} (h : startWrite aw dw q s = .next t) :
    granted s = true ∧
      ∃ f, encode s.cfg aw dw (.writeFrame q.1 (subWords q.2 s)) = some f ∧
        t = loadExchange f 0 0 (some dw) s := by
  unfold startWrite at h
  split at h
  · rename_i f hf
    obtain ⟨hg, -, ht⟩ := xstart_next h
    exact ⟨hg, f, hf, ht⟩
  · cases h

/-- A broken exchange: absent when idle, otherwise the exchange ends and the engine is emptied. -/
theorem breakExchange_next {o : XchgOutcome} {j : Nat} {s t : State} (h : breakExchange o j s = .next t) :
    (s.eng.ph = .idle ∧ t = s) ∨
      (s.eng.ph ≠ .idle ∧ ∃ p, peerCut s.cfg s.eng j s.env.peer = some p ∧
        t = endExchange o { s with eng := discard s.eng, env := { s.env with peer := p, answer := [] } }) := by
  unfold breakExchange at h
  split at h
  · rename_i hi; cases h; exact .inl ⟨hi, rfl⟩
  · rename_i hi
    split at h
    · cases h
    · rename_i p hp; cases h; exact .inr ⟨hi, p, hp, rfl⟩

theorem present_next {c : Caller} {cmd : Command} {s t : State} (h : present c cmd s = .next t) :
    callerWaits c s = false ∧
      t = record (.call c cmd) { s with pending := s.pending ++ [(c, cmd)] } := by
  unfold present at h
  split at h
  · cases h
  · rename_i hw; cases h; exact ⟨by simpa using hw, rfl⟩

theorem resetBlock_next {s t : State} (h : resetBlock s = .next t) :
    s.busy = false ∧ s.pending = [] ∧
      t = State.constructed s.cfg { s.env with answer := [] } s.history := by
  unfold resetBlock at h
  split at h
  · cases h
  · rename_i hw
    cases h
    simp only [Bool.or_eq_true, Bool.not_eq_true', not_or, Bool.not_eq_true] at hw
    refine ⟨hw.1, ?_, rfl⟩
    simpa using hw.2

theorem pickPending_some {k i : Nat} {c : Caller} {cmd : Command} {s : State}
    (h : pickPending k s = some (i, c, cmd)) : i = k % s.pending.length ∧ s.pending[i]? = some (c, cmd) := by
  unfold pickPending at h
  split at h
  · rename_i c' cmd' hq
    cases h
    exact ⟨rfl, hq⟩
  · cases h

/-- INITIALIZE after an `Ok` exchange: a failure of one of two kinds, or Ready. -/
theorem finishInit_cases (s : State) :
    (∃ aw dw, s.eng.xq = [aw, dw] ∧ (aw = 0 ∨ dw = 0) ∧
      finishInit s = raiseFailure .configurationError
        { s with lc := .dead, cmd := { s.cmd with rq := [aw, dw] } }) ∨
    (∃ aw dw, s.eng.xq = [aw, dw] ∧ aw ≠ 0 ∧ dw ≠ 0 ∧
      finishInit s = release .ok .nothing
        { s with lc := .ready, aw := some aw, dw := some dw, cmd := { s.cmd with rq := [aw, dw] } }) ∨
    (s.eng.xq.length ≠ 2 ∧ finishInit s = raiseFailure .transportError s) := by
  rcases hx : s.eng.xq with - | ⟨a, - | ⟨d, - | ⟨e, l⟩⟩⟩
  · exact .inr (.inr ⟨by simp, by simp [finishInit, hx]⟩)
  · exact .inr (.inr ⟨by simp, by simp [finishInit, hx]⟩)
  · by_cases h : a = 0 ∨ d = 0
    · exact .inl ⟨a, d, rfl, h, by simp [finishInit, hx, h]⟩
    · have h' := not_or.1 h
      exact .inr (.inl ⟨a, d, rfl, h'.1, h'.2, by simp [finishInit, hx, h'.1, h'.2]⟩)
  · exact .inr (.inr ⟨by simp, by simp [finishInit, hx]⟩)

/-- A transfer after an `Ok` exchange: the sub-transfer exists, and `finishSub` closes it. -/
theorem finishTransfer_next {r : Bool} {s t : State} (h : finishTransfer r s = .next t) :
    ∃ p q, currentPlan s = some p ∧ p[s.cmd.ki]? = some q ∧
      t = finishSub p.length q.2 (if r then s.eng.xq else []) r s := by
  unfold finishTransfer at h
  split at h
  · cases h
  · rename_i p hp
    split at h
    · cases h
    · rename_i q hq; cases h; exact ⟨p, q, hp, hq, rfl⟩

/-- The command acts on its exchange's outcome in one of five ways. -/
theorem collect_next {o : XchgOutcome} {s t : State} (h : collect o s = .next t) :
    (o = .transportError ∧ t = raiseFailure .transportError s) ∨
    (o = .cancelled ∧ t = raiseFailure .cancelled s) ∨
    (∃ r, o = .ok r ∧ s.cmd.op = some .initCmd ∧ t = finishInit s) ∨
    (∃ r, o = .ok r ∧ s.cmd.op = some .readCmd ∧ finishTransfer true s = .next t) ∨
    (∃ r, o = .ok r ∧ s.cmd.op = some .writeCmd ∧ finishTransfer false s = .next t) := by
  unfold collect at h
  split at h
  · cases h; exact .inl ⟨rfl, rfl⟩
  · cases h; exact .inr (.inl ⟨rfl, rfl⟩)
  · rename_i r
    split at h
    · rename_i ho; cases h; exact .inr (.inr (.inl ⟨r, rfl, ho, rfl⟩))
    · rename_i ho; exact .inr (.inr (.inr (.inl ⟨r, rfl, ho, h⟩)))
    · rename_i ho; exact .inr (.inr (.inr (.inr ⟨r, rfl, ho, h⟩)))
    · cases h
    · cases h

/-- The next sub-transfer starts as a READ or a WRITE of the plan. -/
theorem startCurrent_next {s t : State} (h : startCurrent s = .next t) :
    ∃ p aw dw q, currentPlan s = some p ∧ s.aw = some aw ∧ s.dw = some dw ∧ p[s.cmd.ki]? = some q ∧
      ((s.cmd.op = some .readCmd ∧ startRead aw dw q s = .next t) ∨
        (s.cmd.op = some .writeCmd ∧ startWrite aw dw q s = .next t)) := by
  unfold startCurrent at h
  split at h
  · rename_i p aw dw hp ha hd
    split at h
    · cases h
    · rename_i q hq
      refine ⟨p, aw, dw, q, hp, ha, hd, hq, ?_⟩
      split at h
      · rename_i ho; exact .inl ⟨ho, h⟩
      · rename_i ho; exact .inr ⟨ho, h⟩
      · cases h
  · cases h

/-- The decoder gives wire opcodes only. -/
theorem decodeFrame_isFrame {c : Config} {w : Option (Nat × Nat)} {f : Bits} {i : Instr}
    (h : decodeFrame c w f = .ok i) : i.isFrame = true := by
  unfold decodeFrame at h
  split at h
  · simp only [decodeBody, decodeSize, decodeRead, decodeWrite] at h
    repeat' split at h
    all_goals first | (cases h; rfl) | cases h
  · cases h

/-- A step of the block in `TX` that receives the frame. -/
theorem blockStep_receive {s : State} (hp : s.eng.ph = .tx) (ht : ¬ s.eng.txi < s.eng.txbuf.length)
    (x : Inputs) : blockStep x s = receiveFrame s := by
  simp [blockStep, hp, ht]

@[simp] theorem exchangesOf_append (h k : List Event) : exchangesOf (h ++ k) = exchangesOf h ++ exchangesOf k :=
  List.filterMap_append

/-- The count of exchanges is the length of their list. -/
theorem exchangeCount_eq (h : List Event) : exchangeCount h = (exchangesOf h).length := by
  induction h with
  | nil => rfl
  | cons e h ih =>
    simp only [exchangeCount, exchangesOf, List.countP_cons, List.filterMap_cons] at ih ⊢
    cases e <;> simp [ih]

/-- `runFor` is the host's run of the machine. -/
theorem runFor_eq_run (k : Nat) (s : State) : runFor k s = Host.Core.run Sys2Proof.core k s := by
  induction k generalizing s with
  | zero => rfl
  | succ k ih =>
    simp only [runFor, Host.Core.run, show Sys2Proof.core.step s = step s from rfl]
    cases step s with
    | next t => exact ih t
    | fault f => rfl
    | refused r => rfl

end Sys2Proof.Laws
end

