-- ==== Sys2Proof/Laws/PerInstr.lean ====
section
/-! SUPPORT. Statements made per instruction: a family per namespace, its `Statement` and one lemma per
constructor of `Instr`. -/

namespace Sys2Proof.Laws.EncodedIsFrame

/-- Only the wire opcodes have bits (spec/30_encoding.md R103), and every frame starts with its 2-bit
opcode (R80): whatever is encoded is a frame row and at least two bits long. -/
def Statement (i : Instr) : Prop :=
  ∀ (c : Config) (aw dw : Nat) (f : Bits), encode c aw dw i = some f → i.isFrame = true ∧ 2 ≤ f.length

theorem head_length {op : BitVec 2} {aw a : Nat} {f : Bits} (h : encodeHead op aw a = some f) :
    2 ≤ f.length := by
  unfold encodeHead at h
  split at h
  · rename_i o b ho hb
    cases h
    rw [fromUnsigned_opcode] at ho
    cases ho
    simp [Machine.bitConcat]
  · cases h

theorem nop : Statement .nop := by
  intro c aw dw f h
  simp only [encode, fromUnsigned_opcode, Option.some.injEq] at h
  subst h; simp [Instr.isFrame]

theorem size : Statement .size := by
  intro c aw dw f h
  simp only [encode, fromUnsigned_opcode, Option.some.injEq] at h
  subst h; simp [Instr.isFrame]

theorem writeFrame (a : Nat) (ws : List Nat) : Statement (.writeFrame a ws) := by
  intro c aw dw f h
  simp only [encode] at h
  split at h
  · rename_i x y hx hy
    cases h
    have := head_length hx
    refine ⟨rfl, ?_⟩
    simp only [Machine.bitConcat, List.length_append]
    omega
  · cases h

theorem readFrame (a : Nat) : Statement (.readFrame a) :=
  fun _ _ _ _ h => ⟨rfl, head_length h⟩

theorem initCmd : Statement .initCmd := fun _ _ _ _ h => nomatch h
theorem sizeqCmd : Statement .sizeqCmd := fun _ _ _ _ h => nomatch h
theorem readCmd (a n : Nat) : Statement (.readCmd a n) := fun _ _ _ _ h => nomatch h
theorem writeCmd (a : Nat) (ws : List WriteWord) : Statement (.writeCmd a ws) := fun _ _ _ _ h => nomatch h
theorem bvFromUnsigned (v : Int) (w : Nat) : Statement (.bvFromUnsigned v w) := fun _ _ _ _ h => nomatch h
theorem bvToUnsigned (v : Bits) : Statement (.bvToUnsigned v) := fun _ _ _ _ h => nomatch h
theorem bvLength (v : Bits) : Statement (.bvLength v) := fun _ _ _ _ h => nomatch h
theorem bvConcat (a b : Bits) : Statement (.bvConcat a b) := fun _ _ _ _ h => nomatch h
theorem bvSlice (v : Bits) (s e : Nat) : Statement (.bvSlice v s e) := fun _ _ _ _ h => nomatch h
theorem bvEq (a b : Bits) : Statement (.bvEq a b) := fun _ _ _ _ h => nomatch h

end Sys2Proof.Laws.EncodedIsFrame
end

