-- ==== Sys2Proof/Tests/Slice0.lean ====
section
/-! SUPPORT. Tests. Expected values come from spec/95_test_vectors.md and the worked examples of the rules;
each test's comment names its source. The second half shows, for every obligation with hypotheses, a state
and operands that meet all of them together. -/

namespace Sys2Proof.Tests

open Machine

/-! ### Helpers -/

/-- A configuration with short responses: `SIZE_RESP_BITS = 5`, `FIELD_BITS = 2`. -/
def small (chunk : Option Nat) : Config := { Config.suggested with sizeRespBits := 5, chunkWords := chunk }

/-- A constructed instance of `small` on the peer `p`. -/
def fresh (chunk : Option Nat) (p : Peer) : State :=
  State.constructed (small chunk) { peer := p, answer := [], script := [], draws := 0 } []

/-- A Ready instance of widths `aw`, `dw`. -/
def ready (chunk : Option Nat) (p : Peer) (aw dw : Nat) : State :=
  { fresh chunk p with lc := .ready, aw := some aw, dw := some dw }

/-- The same with a command of caller 3 granted. -/
def given (s : State) : State := { s with busy := true, owner := some 3, history := [.grant 3] }

/-- The reference peer of widths 2 and 2 with the words 1, 2, 3 at addresses 0, 1, 3. -/
def tiny : Peer := .reference 2 2 [(0, 1), (1, 2), (3, 3)]

/-- The state of a result, or the reset state where there is none. -/
def out (r : Result) : State := r.state?.getD State.reset

/-- `s` with the frame of `i` in `TX`, `sent` of its bits transmitted, `n` bits requested. -/
def sending (s : State) (i : Instr) (sent n : Nat) : State :=
  let f := (encode s.cfg (s.aw.getD 0) (s.dw.getD 0) i).getD []
  { s with eng := { Engine.clear with ph := .tx, txbuf := f, txi := sent, rxn := n } }

/-- `s` in `RX` with `n` bits still requested. -/
def sampling (s : State) (n : Nat) : State := { s with eng := { Engine.clear with ph := .rx, rxn := n } }

/-! ### Well-formedness: one ill-formed term per check -/

theorem test_wf_write_address : (Instr.writeFrame 8 [1]).wellFormed 3 2 = false := by decide
theorem test_wf_write_width : (Instr.writeFrame 7 [0]).wellFormed 3 0 = false := by decide
theorem test_wf_write_empty : (Instr.writeFrame 7 []).wellFormed 3 2 = false := by decide
theorem test_wf_write_word : (Instr.writeFrame 7 [3, 4]).wellFormed 3 2 = false := by decide
theorem test_wf_read_address : (Instr.readFrame 8).wellFormed 3 2 = false := by decide
theorem test_wf_from_negative : (Instr.bvFromUnsigned (-1) 3).wellFormed 3 2 = false := by decide
theorem test_wf_from_too_large : (Instr.bvFromUnsigned 8 3).wellFormed 3 2 = false := by decide
theorem test_wf_slice_order : (Instr.bvSlice [true, false] 2 1).wellFormed 3 2 = false := by decide
theorem test_wf_slice_end : (Instr.bvSlice [true, false] 1 3).wellFormed 3 2 = false := by decide

/-! ### Decoding: words written out bit by bit -/

/-- R81: the NOP opcode is `<0 0>` at the suggested values. -/
theorem test_decode_nop : decodeFrame Config.suggested none [false, false] = .ok .nop := by decide

/-- EN1: the SIZE frame is `<1 0>`. -/
theorem test_decode_size : decodeFrame Config.suggested none [true, false] = .ok .size := by decide

/-- EN2: READ of address 5 at `AW = 8` is `<1 1 | 1 0 1 0 0 0 0 0>`. -/
theorem test_decode_read :
    decodeFrame Config.suggested (some (8, 8))
      [true, true, true, false, true, false, false, false, false, false] = .ok (.readFrame 5) := by decide

/-- R94: WRITE of 7 to address 5 is `<0 1 | 1 0 1 0 0 0 0 0 | 1 1 1 0 0 0 0 0>`. -/
theorem test_decode_write :
    decodeFrame Config.suggested (some (8, 8))
      [false, true, true, false, true, false, false, false, false, false,
        true, true, true, false, false, false, false, false] = .ok (.writeFrame 5 [7]) := by decide

/-- R91, R94, R98: bits that are no frame are rejected by name. -/
theorem test_decode_rejects :
    decodeFrame Config.suggested (some (2, 2)) [true] = .error .noOpcode
      ∧ decodeFrame Config.suggested (some (2, 2)) [true, false, true] = .error .trailingAfterSize
      ∧ decodeFrame Config.suggested none [true, true] = .error .widthsUnknown
      ∧ decodeFrame Config.suggested (some (2, 2)) [true, true, true] = .error .addressLength
      ∧ decodeFrame Config.suggested (some (2, 2)) [false, true, true, true] = .error .noDataWord
      ∧ decodeFrame Config.suggested (some (2, 2)) [false, true, true, true, true] = .error .raggedData := by
  decide

/-- The `match` values of spec/opcode_table.json, and an operand bit above the opcode. -/
theorem test_table_words :
    decodeTableWord 8 0 = some .nop ∧ decodeTableWord 8 1 = some .size
      ∧ decodeTableWord 8 2 = some (.writeFrame 0 [0]) ∧ decodeTableWord 8 3 = some (.readFrame 0)
      ∧ decodeTableWord 16 (3 + 4 * 5) = some (.readFrame 5) := by decide

/-- The next step after reset runs the frame that was staged: READ goes on to `RX`. -/
theorem test_fetch_word :
    step (State.reset.withFetchWord 8 3) =
      exec (.readFrame 0) (takeMove (State.reset.withFetchWord 8 3)).2
      ∧ (out (step (State.reset.withFetchWord 8 3))).eng.ph = .rx := ⟨rfl, by decide⟩

/-! ### Instructions, one step each -/

/-- R67 with widths 2 and 2: a drawn skip bit, then `<0 1 0 1>`. -/
theorem test_size_frame :
    (out (exec .size (sending (given (fresh none tiny)) .size 2 5))).env.answer
      = [none, some false, some true, some false, some true] := by decide

/-- R68: one word of draws, then the words of addresses 3 and 0 (the address wraps). -/
theorem test_read_frame :
    (out (exec (.readFrame 3) (sending (given (ready none tiny 2 2)) (.readFrame 3) 4 6))).env.answer
      = [none, none, some true, some true, some true, some false] := by decide

/-- R69: the words land at addresses 3 and 0. -/
theorem test_write_frame :
    (out (exec (.writeFrame 3 [0, 2]) (sending (given (ready none tiny 2 2)) (.writeFrame 3 [0, 2]) 8 0))).env.peer
      = .reference 2 2 [(0, 2), (1, 2), (3, 0)] := by decide

/-- R206: a WRITE exchange ends at once with `Ok(<>)`. -/
theorem test_write_frame_ends :
    (out (exec (.writeFrame 3 [1]) (sending (given (ready none tiny 2 2)) (.writeFrame 3 [1]) 6 0))).eng.outcome
      = some (.ok []) := by decide

/-- R222: a NOP frame leaves the peer alone. -/
theorem test_nop_frame :
    (out (exec .nop (sending (given (ready none tiny 2 2)) .nop 2 0))).env.peer = tiny := by decide

/-- R162: `<1 0>`, 25 bits. -/
theorem test_initialize :
    (out (exec .initCmd (given State.reset))).history = [.grant 3, .xchg [true, false] 25] := by decide

/-- R163. -/
theorem test_initialize_twice :
    Result.refusal? (exec .initCmd (given (ready none .oracle 8 8))) = some Refusal.initializeNotUninitialized := by decide

/-- R170: `SIZEQ` returns `(16, 8)`. -/
theorem test_sizeq :
    (out (exec .sizeqCmd (given (ready none .oracle 16 8)))).ports.ret
      = some (some 3, .ok, .widths 16 8) := by decide

/-- R170: before any `INITIALIZE`, `NotInitialized`. -/
theorem test_sizeq_early :
    (out (exec .sizeqCmd (given State.reset))).status = some .notInitialized := by decide

/-- R192: `READ(5, 3)` sends `<1 1 | 1 0 1 0 0 0 0 0>` and requests 32 bits. -/
theorem test_read :
    (out (exec (.readCmd 5 3) (given (ready none .oracle 8 8)))).history
      = [.grant 3, .xchg [true, true, true, false, true, false, false, false, false, false] 32] := by decide

/-- R183: `count = 0`. -/
theorem test_read_nothing :
    (out (exec (.readCmd 5 0) (given (ready none .oracle 8 8)))).status = some .outOfRange := by decide

/-- R210: `WRITE(5, [7])` sends 18 bits and requests none. -/
theorem test_write :
    (out (exec (.writeCmd 5 [.uint 7]) (given (ready none .oracle 8 8)))).history
      = [.grant 3,
          .xchg [false, true, true, false, true, false, false, false, false, false,
            true, true, true, false, false, false, false, false] 0] := by decide

/-- R203: `write(address=300, words=[0])` with `AW = 8`. -/
theorem test_write_range :
    (out (exec (.writeCmd 300 [.uint 0]) (given (ready none .oracle 8 8)))).status = some .outOfRange := by
  decide

/-- R113: `bv(5, 4)` with the least significant bit first, and the domain error. -/
theorem test_from_unsigned :
    (out (exec (.bvFromUnsigned 5 4) State.reset)).bvResult = some (.bits [true, false, true, false])
      ∧ Result.refusal? (exec (.bvFromUnsigned 16 4) State.reset) = some Refusal.domainError := by decide

/-- R114: `uint(<0 0 0 0 1 0 0 0 0 0 0 0>) = 16`. -/
theorem test_to_unsigned :
    (out (exec (.bvToUnsigned [false, false, false, false, true, false, false, false, false, false, false, false])
      State.reset)).bvResult = some (.nat 16) := by decide

/-- R111: `len(<1 0 1>) = 3`. -/
theorem test_length : (out (exec (.bvLength [true, false, true]) State.reset)).bvResult = some (.nat 3) := by
  decide

/-- R116: `<1 1> ++ <1 0 1> = <1 1 1 0 1>`. -/
theorem test_concat :
    (out (exec (.bvConcat [true, true] [true, false, true]) State.reset)).bvResult
      = some (.bits [true, true, true, false, true]) := by decide

/-- R117: `slice(<0 1 1 0 1>, 1, 4) = <1 1 0>`, and out of bounds. -/
theorem test_slice :
    (out (exec (.bvSlice [false, true, true, false, true] 1 4) State.reset)).bvResult
      = some (.bits [true, true, false])
      ∧ Result.refusal? (exec (.bvSlice [true, true] 1 3) State.reset) = some Refusal.sliceOutOfBounds := by decide

/-- R112: equal vectors, and `eq(bv(1,1), bv(1,2))`. -/
theorem test_eq :
    (out (exec (.bvEq [true, false] [true, false]) State.reset)).bvResult = some (.bool true)
      ∧ (out (exec (.bvEq [true] [true, false]) State.reset)).bvResult = some (.bool false) := by decide

/-! ### Witnesses: the hypotheses of the obligations, met together -/

theorem test_witness_DecodingAnEncodedFrameGivesItBack :
    (small none).legal = true ∧ (Instr.writeFrame 7 [0, 3]).isFrame = true
      ∧ (Instr.writeFrame 7 [0, 3]).wellFormed 3 2 = true ∧ (Instr.readFrame 0).isFrame = true
      ∧ (Instr.readFrame 0).wellFormed 0 0 = true ∧ Instr.nop.wellFormed 0 0 = true
      ∧ Instr.size.wellFormed 0 0 = true := by decide

theorem test_witness_AnAcceptedFrameIsTheEncodingOfWhatWasRead :
    decodeFrame (small none) (some (1, 1)) [false, true, true, true] = .ok (.writeFrame 1 [1])
      ∧ Instr.writeFrame 1 [1] ≠ .nop := by decide

theorem test_witness_FramesHaveTheLayoutOfTheirFormat :
    7 < 2 ^ 3 ∧ (∀ w ∈ [3], w < 2 ^ 2) ∧ [3] ≠ ([] : List Nat) := by decide

theorem test_witness_FromUnsignedGivesTheBitsOrRefuses :
    ((0 : Int) ≤ 7 ∧ (7 : Int) < 2 ^ 3) ∧ ((0 : Int) ≤ 0 ∧ (0 : Int) < 2 ^ 0)
      ∧ ((-1 : Int) < 0 ∨ (2 : Int) ^ 3 ≤ -1) ∧ ((8 : Int) < 0 ∨ (2 : Int) ^ 3 ≤ 8) := by decide

theorem test_witness_EncodingThenDecodingANumberGivesItBack :
    7 < 2 ^ 3 ∧ fromUnsigned 7 3 = some [true, true, true] := by decide

theorem test_witness_SliceIsHalfOpenOrRefused :
    (2 ≤ 2 ∧ 2 ≤ [true, false].length) ∧ (1 < 2 ∨ [true, false].length < 1)
      ∧ (3 < 2 ∨ [true, false].length < 3) := by decide

theorem test_witness_NoStepEmitsANopFrame :
    granted (given (fresh none .oracle)) = true
      ∧ ∃ t, step (withScript (fresh none .oracle) [.silence]) = .next t := ⟨by decide, _, rfl⟩

theorem test_witness_TransmissionIsInIndexOrder :
    let s := sending (given (ready none .oracle 2 2)) (.readFrame 3) 1 4
    s.eng.ph = .tx ∧ [({} : Inputs), {}, {}] ≠ []
      ∧ s.eng.txi + [({} : Inputs), {}, {}].length ≤ s.eng.txbuf.length := by decide

theorem test_witness_ReceptionSamplesTheRequestedBits :
    let s := sampling (given (ready none .oracle 2 2)) 2
    s.eng.ph = .rx ∧ s.env.answer = [] ∧ [({} : Inputs), {}].length ≤ s.eng.rxn := by decide

theorem test_witness_PartitionerAgreesWithTheWholeResponse :
    let e := { Engine.clear with skip := 1, wlen := some 2 }
    1 ≤ 2 ∧ e.skip = 1 ∧ e.wlen = some 2 ∧ e.wacc = [] ∧ e.xq = [] ∧ e.rxbuf = []
      ∧ [true, false, true, true, true].length = 1 + 2 * 2 := by decide

theorem test_witness_DroppedBitsLeaveNoTrace :
    let e := { Engine.clear with skip := 1, wlen := some 2 }
    [true, false, true].length = [false, false, true].length
      ∧ [true, false, true].drop e.skip = [false, false, true].drop e.skip := by decide

theorem test_witness_LinkEventsEndTheExchangeOrAreAbsent :
    let s := sampling (given (ready none tiny 2 2)) 2
    let f := exchangeEnded s .transportError
    let c := exchangeEnded s .cancelled
    s.eng.ph ≠ .idle ∧ peerCut s.cfg s.eng 0 s.env.peer = some tiny
      ∧ (fresh none .oracle).env.peer = .oracle ∧ (fresh none .oracle).eng.ph = .idle
      ∧ (f.busy = true ∧ f.eng.ph = .idle ∧ f.eng.outcome = some .transportError)
      ∧ (c.busy = true ∧ c.eng.ph = .idle ∧ c.eng.outcome = some .cancelled) := by decide

theorem test_witness_ASizeFrameAsksForTheWidths :
    let s := sending (given (fresh none .oracle)) .size 2 5
    let t := sending (given (fresh none tiny)) .size 2 5
    let u := sending (given (fresh none .oracle)) .size 2 0
    frameSent s = true ∧ 0 < s.eng.rxn ∧ s.env.peer = .oracle
      ∧ frameSent t = true ∧ 0 < t.eng.rxn ∧ t.env.peer = tiny ∧ frameSent u = true ∧ u.eng.rxn = 0 := by decide

theorem test_witness_AReadFrameAsksForTheWordsFromItsAddress :
    let s := sending (given (ready none .oracle 2 2)) (.readFrame 3) 4 4
    let t := sending (given (ready none tiny 2 2)) (.readFrame 3) 4 4
    let u := sending (given (ready none tiny 2 2)) (.readFrame 3) 4 0
    frameSent s = true ∧ 0 < s.eng.rxn ∧ s.env.peer = .oracle
      ∧ frameSent t = true ∧ 0 < t.eng.rxn ∧ 1 ≤ 2 ∧ t.eng.rxn = (1 + 1) * 2 ∧ t.env.peer = tiny
      ∧ frameSent u = true ∧ u.eng.rxn = 0 := by decide

theorem test_witness_AWriteFrameStoresItsWords :
    let f := Instr.writeFrame 3 [1]
    let s := sending (given (ready none .oracle 2 2)) f 6 0
    let t := sending (given (ready none tiny 2 2)) f 6 0
    let u := sending (given (ready none .oracle 2 2)) f 6 1
    let v := sending (given (ready none tiny 2 2)) f 6 1
    (frameSent s = true ∧ s.eng.rxn = 0 ∧ s.env.peer = .oracle)
      ∧ (frameSent t = true ∧ t.eng.rxn = 0 ∧ t.env.peer = tiny)
      ∧ (frameSent u = true ∧ 0 < u.eng.rxn ∧ u.env.peer = .oracle)
      ∧ (frameSent v = true ∧ 0 < v.eng.rxn ∧ v.env.peer = tiny) := by decide

theorem test_witness_ANopFrameIsIgnoredByThePeer :
    let s := sending (given (ready none tiny 2 2)) .nop 2 1
    let t := sending (given (ready none tiny 2 2)) .nop 2 0
    frameSent s = true ∧ 0 < s.eng.rxn ∧ frameSent t = true ∧ t.eng.rxn = 0 := by decide

theorem test_witness_ACutWriteAppliesAPrefix :
    let s := sending (given (ready none tiny 2 2)) (.writeFrame 3 [1, 2]) 5 0
    let t := sending (given (ready none tiny 2 2)) (.readFrame 3) 0 4
    s.eng.ph = .tx ∧ s.env.peer = tiny
      ∧ decodeFrame s.cfg (some (2, 2)) s.eng.txbuf = .ok (.writeFrame 3 [1, 2])
      ∧ t.eng.ph = .tx ∧ t.env.peer = tiny
      ∧ decodeFrame t.cfg (some (2, 2)) t.eng.txbuf = .ok (.readFrame 3)
      ∧ (∀ e ∈ [Move.linkFail 1, Move.linkAbort 1], e = .linkFail 1 ∨ e = .linkAbort 1)
      ∧ (sampling (given (ready none tiny 2 2)) 2).eng.ph = .rx
      ∧ (sampling (given (ready none tiny 2 2)) 2).env.peer = tiny := by decide

theorem test_witness_AWriteIsReadBackAndLeavesOtherCellsAlone :
    [1, 2].length ≤ 2 ^ 1 ∧ ∀ i < [1, 2].length, 1 ≠ (3 + i) % 2 ^ 2 := by decide

theorem test_witness_InitializeStartsTheSizeExchangeOrIsRefused :
    let s := given (fresh none .oracle)
    let t := given (ready none .oracle 2 2)
    s.cfg.legal = true ∧ granted s = true ∧ s.lc = .uninitialized
      ∧ t.cfg.legal = true ∧ granted t = true ∧ t.lc ≠ .uninitialized := by decide

theorem test_witness_InitializeRunsAsTheCallLevelRuleSays :
    let s := given (fresh none .oracle)
    s.cfg.legal = true ∧ granted s = true ∧ s.owner = some 3 ∧ s.lc = .uninitialized
      ∧ s.env.peer = .oracle := by decide

theorem test_witness_WidthFieldsDecideReadyOrDead :
    (small none).legal = true ∧ 3 < 2 ^ (small none).fieldBits ∧ 0 < 2 ^ (small none).fieldBits := by decide

theorem test_witness_InitializeDiscoversTheReferencePeersWidths :
    let s := given (fresh none tiny)
    s.cfg.legal = true ∧ granted s = true ∧ s.lc = .uninitialized
      ∧ s.env.peer = .reference 2 2 [(0, 1), (1, 2), (3, 3)]
      ∧ peerWf s.cfg.fieldBits s.env.peer = true
      ∧ (List.replicate 10 ({} : Inputs)).length = s.cfg.sizeRespBits + 5 := by decide

theorem test_witness_SizeqReturnsTheStoredWidths :
    let s := given (ready none .oracle 2 3)
    granted s = true ∧ s.lc = .ready ∧ s.aw = some 2 ∧ s.dw = some 3 := by decide

theorem test_witness_CommandsOutsideReadyAreNotInitialized :
    let s := given (fresh none .oracle)
    let t := { s with lc := .dead }
    granted s = true ∧ s.lc ≠ .ready ∧ granted t = true ∧ t.lc ≠ .ready
      ∧ ∃ u, exec .initCmd s = .next u := ⟨by decide, by decide, by decide, by decide, _, rfl⟩

theorem test_witness_ReadStartsItsFirstExchange :
    let s := given (ready (some 2) .oracle 2 2)
    s.cfg.legal = true ∧ granted s = true ∧ s.lc = .ready ∧ s.aw = some 2 ∧ s.dw = some 2
      ∧ 1 < 2 ^ 2 ∧ 1 ≤ 3 ∧ (∀ q ∈ plan s.cfg.chunkWords 1 3, q.1 < 2 ^ 2) := by decide

/-- A granted READ of 3 words in chunks of 2, between its two sub-transfers. -/
def between : State :=
  { given (ready (some 2) .oracle 2 2) with
    cmd := { op := some .readCmd, addr := some 1, count := some 3, wq := [], rq := [1, 2], ki := 1, doneWords := 2 } }

theorem test_witness_EveryReadExchangeSkipsItsFirstWord :
    let s := withScript between [.tick {}]
    let t := out (step s)
    step s = .next t ∧ s.eng.ph = .idle ∧ t.eng.ph ≠ .idle ∧ t.cmd.op = some .readCmd
      ∧ t.dw = some 2 ∧ [true, false].length = 2 :=
  ⟨rfl, by decide, by decide, by decide, by decide, by decide⟩

theorem test_witness_ReadOutOfRangeSendsNothing :
    let s := given (ready none .oracle 2 2)
    s.cfg.legal = true ∧ granted s = true ∧ s.lc = .ready ∧ s.aw = some 2 ∧ s.dw = some 2
      ∧ (2 ^ 2 ≤ 4 ∨ 1 < 1) ∧ (2 ^ 2 ≤ 3 ∨ 0 < 1) ∧ 3 < 2 ^ 2 ∧ 1 ≤ 1 ∧ s.cfg.chunkWords = none
      ∧ (let u := given (ready (some 2) .oracle 2 2)
        u.cfg.legal = true ∧ granted u = true ∧ u.lc = .ready ∧ u.aw = some 2 ∧ u.dw = some 2
          ∧ 2 < 2 ^ 2 ∧ 1 ≤ 3 ∧ startsEncodable 2 (plan u.cfg.chunkWords 2 3) = false) := by decide

theorem test_witness_ReadRunsAsTheCallLevelRuleSays :
    let s := given (ready (some 2) .oracle 2 2)
    s.cfg.legal = true ∧ granted s = true ∧ s.owner = some 3 ∧ s.lc = .ready ∧ s.aw = some 2 ∧ s.dw = some 2
      ∧ 1 ≤ 2 ∧ s.env.peer = .oracle ∧ readInRange 2 1 3 = true
      ∧ startsEncodable 2 (plan s.cfg.chunkWords 1 3) = true
      ∧ [(⟨false, .linkFail⟩ : SubEnv), ⟨true, .linkAbort⟩].length = (plan s.cfg.chunkWords 1 3).length := by
  decide

theorem test_witness_ReadReturnsTheWordsAfterTheGarbage :
    let gs : List Bits := [[true, false], [true, true]]
    let wss := [[1, 3], [2]]
    1 ≤ 2 ∧ readInRange 2 1 3 = true ∧ startsEncodable 2 (plan (some 2) 1 3) = true ∧ gs.length = wss.length
      ∧ wss.map List.length = (plan (some 2) 1 3).map (·.2) ∧ (∀ g ∈ gs, g.length = 2)
      ∧ (∀ ws ∈ wss, ∀ w ∈ ws, w < 2 ^ 2) ∧ (small (some 2)).legal = true ∧ 3 ≠ 1 := by decide

theorem test_witness_ReadReturnsASingleWord :
    let gs : List Bits := [[true, false]]
    let wss := [[3]]
    1 ≤ 2 ∧ readInRange 2 3 1 = true ∧ startsEncodable 2 (plan (some 2) 3 1) = true ∧ gs.length = wss.length
      ∧ wss.map List.length = (plan (some 2) 3 1).map (·.2) ∧ (∀ g ∈ gs, g.length = 2)
      ∧ (∀ ws ∈ wss, ∀ w ∈ ws, w < 2 ^ 2) ∧ (small (some 2)).legal = true := by decide

theorem test_witness_ReadOnTheReferencePeerReturnsItsMemory :
    let s := given (ready none tiny 2 2)
    s.cfg.legal = true ∧ s.cfg.chunkWords = none ∧ granted s = true ∧ s.owner = some 3 ∧ s.lc = .ready
      ∧ s.aw = some 2 ∧ s.dw = some 2 ∧ 1 ≤ 2 ∧ s.env.peer = .reference 2 2 [(0, 1), (1, 2), (3, 3)]
      ∧ memWf 2 2 [(0, 1), (1, 2), (3, 3)] = true ∧ 3 < 2 ^ 2 ∧ 1 ≤ 2
      ∧ (List.replicate 13 ({} : Inputs)).length = 2 + 2 + (2 + 1) * 2 + 3 := by decide

theorem test_witness_WriteStartsItsFirstExchange :
    let s := given (ready (some 2) .oracle 2 2)
    (s.cfg.legal = true ∧ granted s = true ∧ s.lc = .ready ∧ s.aw = some 2 ∧ s.dw = some 2)
      ∧ 1 < 2 ^ 2 ∧ [WriteWord.uint 3, .vec [true, true], .uint 0] ≠ []
      ∧ (∀ n, .uint n ∈ [WriteWord.uint 3, .vec [true, true], .uint 0] → n < 2 ^ 2)
      ∧ (∀ v, .vec v ∈ [WriteWord.uint 3, .vec [true, true], .uint 0] → v.length = 2)
      ∧ (∀ q ∈ plan s.cfg.chunkWords 1 3, q.1 < 2 ^ 2) :=
  ⟨by decide, by decide, by decide, by simp, by simp, by decide⟩

theorem test_witness_WriteOutOfRangeSendsNothing :
    let s := given (ready none .oracle 2 2)
    (s.cfg.legal = true ∧ granted s = true ∧ s.lc = .ready ∧ s.aw = some 2 ∧ s.dw = some 2)
      ∧ 2 ^ 2 ≤ 4 ∧ (∃ n, .uint n ∈ [WriteWord.uint 0, .uint 4] ∧ 2 ^ 2 ≤ n)
      ∧ (∃ v, .vec v ∈ [WriteWord.vec [true]] ∧ v.length ≠ 2)
      ∧ 3 < 2 ^ 2 ∧ [WriteWord.uint 3, .uint 0] ≠ [] ∧ (∀ w ∈ [WriteWord.uint 3, .uint 0], wordFits 2 w = true)
      ∧ s.cfg.chunkWords = none
      ∧ (let u := given (ready (some 1) .oracle 2 2)
        u.cfg.legal = true ∧ granted u = true ∧ u.lc = .ready ∧ u.aw = some 2 ∧ u.dw = some 2
          ∧ startsEncodable 2 (plan u.cfg.chunkWords 3 [WriteWord.uint 3, .uint 0].length) = false) :=
  ⟨by decide, by decide, ⟨4, by simp, by decide⟩, ⟨[true], by simp, by decide⟩, by decide, by decide,
    by decide, by decide, by decide⟩

theorem test_witness_WriteRunsAsTheCallLevelRuleSays :
    let s := given (ready (some 2) .oracle 2 2)
    let ws := [WriteWord.uint 3, .vec [true, true], .uint 0]
    s.cfg.legal = true ∧ granted s = true ∧ s.owner = some 3 ∧ s.lc = .ready ∧ s.aw = some 2 ∧ s.dw = some 2
      ∧ s.env.peer = .oracle ∧ writeInRange 2 2 1 ws = true
      ∧ startsEncodable 2 (plan s.cfg.chunkWords 1 ws.length) = true
      ∧ [(⟨false, .linkFail⟩ : SubEnv), ⟨true, .linkAbort⟩].length
        = (plan s.cfg.chunkWords 1 ws.length).length := by decide

theorem test_witness_WriteOnTheReferencePeerStoresItsWords :
    let s := given (ready none tiny 2 2)
    let ws := [WriteWord.uint 3, .vec [true, true]]
    s.cfg.legal = true ∧ s.cfg.chunkWords = none ∧ granted s = true ∧ s.owner = some 3 ∧ s.lc = .ready
      ∧ s.aw = some 2 ∧ s.dw = some 2 ∧ 1 ≤ 2 ∧ s.env.peer = .reference 2 2 [(0, 1), (1, 2), (3, 3)]
      ∧ writeInRange 2 2 3 ws = true
      ∧ (List.replicate 10 ({} : Inputs)).length = 2 + 2 + ws.length * 2 + 2 := by decide

theorem test_witness_ThePlanCoversTheCommand : 1 ≤ 2 ∧ 2 < 3 := by decide

theorem test_witness_ChunkingCostsOneWordPerSubTransfer :
    some 1 ≠ some 0 ∧ (none : Option Nat) ≠ some 0 := by decide

theorem test_witness_ChunkedAndUnchunkedTransfersAgree :
    some 2 ≠ some 0 ∧ (none : Option Nat) ≠ some 0 := by decide

theorem test_witness_TheBetweenChunksPointReportsThenCancelsOrGoesOn :
    inv between = true ∧ between.busy = true ∧ between.eng.ph = .idle ∧ between.eng.outcome = none
      ∧ ({ cancelReq := true } : Inputs).cancelReq = true ∧ ({} : Inputs).cancelReq = false := by decide

theorem test_witness_CancelRequestIsSampledNowhereElse :
    let x : Inputs := { rxBit := true, cancelReq := true, pick := 1 }
    let y : Inputs := { rxBit := true, cancelReq := false, pick := 1 }
    let s := sampling (given (ready none .oracle 2 2)) 2
    x.rxBit = y.rxBit ∧ x.pick = y.pick
      ∧ ¬(s.busy = true ∧ s.eng.ph = .idle ∧ s.eng.outcome = none) := by decide

theorem test_witness_ExactlyTheNamedExchangesHappen :
    (∃ r, callInit (small none) .uninitialized .linkFail = .returns r)
      ∧ (∃ r, callRead (small none) 2 2 1 1 [⟨false, .bits [true, true, false, true]⟩] = .returns r
        ∧ r.status = .ok)
      ∧ (∃ r, callRead (small none) 2 2 4 1 [] = .returns r ∧ r.status = .outOfRange)
      ∧ (∃ r, callWrite (small none) 2 2 1 [.uint 3] [⟨false, .bits []⟩] = .returns r ∧ r.status = .ok)
      ∧ (∃ r, callWrite (small none) 2 2 1 [.uint 4] [] = .returns r ∧ r.status = .outOfRange) :=
  ⟨⟨_, rfl⟩, ⟨_, rfl, by decide⟩, ⟨_, rfl, by decide⟩, ⟨_, rfl, by decide⟩, ⟨_, rfl, by decide⟩⟩

theorem test_witness_APresentedCommandIsHeld :
    let s := given (ready none .oracle 2 2)
    s.owner ≠ some 1 ∧ (∀ p ∈ s.pending, p.1 ≠ 1) ∧ s.owner = some 3
      ∧ (∃ p ∈ ({ s with pending := [(2, .sizeqCmd)] } : State).pending, p.1 = 2) := by decide

theorem test_witness_HeldCommandsMakeNoStep :
    let s := withScript (given (ready none .oracle 2 2)) [.call 1 .sizeqCmd]
    let t := out (step s)
    s.busy = true ∧ step s = .next t ∧ t.busy = true := ⟨by decide, rfl, by decide⟩

/-- Two callers wait at an idle, Ready instance. -/
def waiting : State :=
  { ready none .oracle 2 2 with
    pending := [(1, .sizeqCmd), (2, .readCmd 3 1)], history := [.call 1 .sizeqCmd, .call 2 (.readCmd 3 1)] }

theorem test_witness_AnyPendingCommandCanBeGranted :
    waiting.busy = false ∧ waiting.eng.ph = .idle ∧ waiting.pending[1]? = some (2, .readCmd 3 1) := by decide

theorem test_witness_TheHistoryServesOneCommandAtATime :
    let s := withScript waiting [.tick { pick := 1 }]
    inv s = true ∧ historyOk s = true ∧ step s = .next (out (step s)) := ⟨by decide, by decide, rfl⟩

theorem test_witness_AStepRunsTheFrameItReceives :
    let s := sending (given (ready none .oracle 2 2)) (.readFrame 3) 4 4
    s.eng.ph = .tx ∧ s.eng.txi = s.eng.txbuf.length
      ∧ decodeFrame s.cfg (frameWidths s) s.eng.txbuf = .ok (.readFrame 3) := by decide

theorem test_witness_AStepRunsTheCommandItGrants :
    waiting.busy = false ∧ waiting.eng.ph = .idle
      ∧ pickPending 3 waiting = some (1, 2, .readCmd 3 1) := by decide

theorem test_witness_EveryStepKeepsTheInvariant :
    let s := withScript between [.tick {}]
    inv s = true ∧ step s = .next (out (step s)) := ⟨by decide, rfl⟩

theorem test_witness_ContractViolationsAreUnreachable :
    let s := withScript between [.tick {}]
    inv s = true ∧ ∀ p, (takeMove s).1 ≠ .evaluate p := ⟨by decide, fun p h => by cases h⟩

/-- INITIALIZE whose exchange has ended `Ok` with the fields `aw`, `dw` at `FIELD_BITS = 2`. -/
def decoded (aw dw : Nat) (r : Bits) : State :=
  withScript
    { given (fresh none .oracle) with
      cmd := { CommandRegs.clear with op := some .initCmd }
      eng :=
        { Engine.clear with
          txbuf := [true, false], txi := 2, rxbuf := r, wlen := some 2, xq := [aw, dw], outcome := some (.ok r) } }
    [.tick {}]

theorem test_witness_OnlyInitializeAndResetChangeTheLifecycle :
    let s := decoded 1 2 [true, true, false, false, true]
    let z := decoded 0 2 [true, false, false, false, true]
    let r := withScript (ready none .oracle 2 2) [.reset]
    (inv s = true ∧ step s = .next (out (step s)) ∧ (out (step s)).lc = .ready)
      ∧ (inv z = true ∧ step z = .next (out (step z)) ∧ (out (step z)).lc = .dead)
      ∧ (inv r = true ∧ step r = .next (out (step r)) ∧ (out (step r)).lc ≠ r.lc) :=
  ⟨⟨by decide, rfl, by decide⟩, ⟨by decide, rfl, by decide⟩, ⟨by decide, rfl, by decide⟩⟩

theorem test_witness_AReturnLeavesWhatItsStatusSays :
    let s := withScript waiting [.tick {}]
    let c := withScript between [.tick { cancelReq := true }]
    let z := decoded 0 2 [true, false, false, false, true]
    let n := withScript { waiting with lc := .dead, aw := none, dw := none } [.tick {}]
    (inv s = true ∧ step s = .next (out (step s))
        ∧ .ret (some 1) .ok (.widths 2 2) ∈ (out (step s)).history.drop s.history.length)
      ∧ (inv c = true ∧ step c = .next (out (step c))
        ∧ .ret (some 3) .cancelled .nothing ∈ (out (step c)).history.drop c.history.length)
      ∧ (inv z = true ∧ step z = .next (out (step z))
        ∧ .ret (some 3) .configurationError .nothing ∈ (out (step z)).history.drop z.history.length)
      ∧ (inv n = true ∧ step n = .next (out (step n))
        ∧ .ret (some 1) .notInitialized .nothing ∈ (out (step n)).history.drop n.history.length) :=
  ⟨⟨by decide, rfl, by decide⟩, ⟨by decide, rfl, by decide⟩, ⟨by decide, rfl, by decide⟩,
    ⟨by decide, rfl, by decide⟩⟩

theorem test_witness_FailedValidationSendsNothing :
    let s := given (ready none .oracle 2 2)
    let w := withScript { waiting with pending := [(2, .readCmd 4 1)] } [.tick {}]
    (granted s = true ∧ exec (Command.readCmd 4 1).toInstr s = .next (out (exec (.readCmd 4 1) s))
        ∧ (out (exec (.readCmd 4 1) s)).busy = false)
      ∧ (step w = .next (out (step w))
        ∧ .ret (some 2) .outOfRange .nothing ∈ (out (step w)).history.drop w.history.length) :=
  ⟨⟨by decide, rfl, by decide⟩, rfl, by decide⟩

theorem test_witness_TheConfigurationIsConstant :
    let s := withScript (ready none tiny 2 2) [.reset]
    step s = .next (out (step s)) ∧ s.env.peer = .reference 2 2 [(0, 1), (1, 2), (3, 3)]
      ∧ (fresh none .oracle).env.peer = .oracle := ⟨rfl, by decide, by decide⟩

theorem test_witness_ResetIsReconstructionWhenIdle :
    let s := ready none .oracle 2 2
    s.busy = false ∧ s.pending = [] ∧ (given s).busy = true ∧ waiting.pending ≠ [] := by decide

end Sys2Proof.Tests
end

