-- ==== Sys2Proof/Proofs/StepCases.lean ====
section
/-! SUPPORT. What each instruction and each part of the sequencer can do, said once: if it answers a next
state, then one of these cases holds. Later proofs cite these lemmas and unfold no meaning. -/

namespace Sys2Proof.Proofs

open Machine Laws

/-- A meaning behind a check answers a next state only where the check holds. -/
theorem guarded_next {c : Prop} [Decidable c] {r : Result} {f : Fault} {t : State}
    (h : (if c then r else .fault f) = .next t) : c ∧ r = .next t := by
  split at h
  · rename_i hc; exact ⟨hc, h⟩
  · cases h

/-! Wire opcodes (spec/30_encoding.md): the exchange leaves `TX`. -/

theorem execNop_next {s t : State} (h : execNop s = .next t) : frameSent s = true ∧ t = endTx [] s := by
  obtain ⟨hs, ht⟩ := guarded_next h
  cases ht; exact ⟨hs, rfl⟩

theorem execSize_next {s t : State} (h : execSize s = .next t) :
    frameSent s = true ∧ t = endTx (sizeAnswer s.cfg.fieldBits s.env.peer) s := by
  obtain ⟨hs, ht⟩ := guarded_next h
  cases ht; exact ⟨hs, rfl⟩

theorem execReadFrame_next {a : Nat} {s t : State} (h : execReadFrame a s = .next t) :
    frameSent s = true ∧ t = endTx (readAnswer a s.eng.rxn s.env.peer) s := by
  obtain ⟨hs, ht⟩ := guarded_next h
  cases ht; exact ⟨hs, rfl⟩

theorem execWriteFrame_next {a : Nat} {ws : List Nat} {s t : State} (h : execWriteFrame a ws s = .next t) :
    frameSent s = true ∧ t = endTx [] { s with env := { s.env with peer := peerWrite a ws s.env.peer } } := by
  obtain ⟨hs, ht⟩ := guarded_next h
  cases ht; exact ⟨hs, rfl⟩

/-! Port commands: a return at once, or the first exchange. -/

theorem execInit_next {s t : State} (h : execInit s = .next t) :
    granted s = true ∧ s.lc = .uninitialized ∧ startSize (latch .initCmd s) = .next t := by
  obtain ⟨hg, h⟩ := guarded_next h
  split at h
  · rename_i hl; exact ⟨hg, hl, h⟩
  · cases h

theorem execSizeq_next {s t : State} (h : execSizeq s = .next t) :
    granted s = true ∧
      ((isReady s = false ∧ t = raiseFailure .notInitialized (latch .sizeqCmd s)) ∨
        (isReady s = true ∧ ∃ aw dw, s.aw = some aw ∧ s.dw = some dw ∧
          t = release .ok (.widths aw dw) (latch .sizeqCmd s))) := by
  obtain ⟨hg, h⟩ := guarded_next h
  refine ⟨hg, ?_⟩
  split at h
  · rename_i hr
    split at h
    · rename_i aw dw ha hd; cases h; exact .inr ⟨hr, aw, dw, ha, hd, rfl⟩
    · cases h
  · rename_i hr; cases h; exact .inl ⟨by simpa using hr, rfl⟩

theorem execRead_next {a n : Nat} {s t : State} (h : execRead a n s = .next t) :
    granted s = true ∧
      ((isReady s = false ∧ t = raiseFailure .notInitialized (latch (.readCmd a n) s)) ∨
        (isReady s = true ∧ ∃ aw dw, s.aw = some aw ∧ s.dw = some dw ∧
          (((readInRange aw a n && startsEncodable aw (plan s.cfg.chunkWords a n)) = false ∧
              t = raiseFailure .outOfRange (latch (.readCmd a n) s)) ∨
            ((readInRange aw a n && startsEncodable aw (plan s.cfg.chunkWords a n)) = true ∧
              ∃ q rest, plan s.cfg.chunkWords a n = q :: rest ∧
                startRead aw dw q (beginTransfer (latch (.readCmd a n) s)) = .next t)))) := by
  obtain ⟨hg, h⟩ := guarded_next h
  refine ⟨hg, ?_⟩
  split at h
  · rename_i hr
    split at h
    · rename_i aw dw ha hd
      refine .inr ⟨hr, aw, dw, ha, hd, ?_⟩
      split at h
      · rename_i hv
        split at h
        · rename_i q rest hq; exact .inr ⟨hv, q, rest, hq, h⟩
        · cases h
      · rename_i hv; cases h; exact .inl ⟨by simpa using hv, rfl⟩
    · cases h
  · rename_i hr; cases h; exact .inl ⟨by simpa using hr, rfl⟩

theorem execWrite_next {a : Nat} {ws : List WriteWord} {s t : State} (h : execWrite a ws s = .next t) :
    granted s = true ∧
      ((isReady s = false ∧ t = raiseFailure .notInitialized (latch (.writeCmd a ws) s)) ∨
        (isReady s = true ∧ ∃ aw dw, s.aw = some aw ∧ s.dw = some dw ∧
          (((writeInRange aw dw a ws && startsEncodable aw (plan s.cfg.chunkWords a ws.length)) = false ∧
              t = raiseFailure .outOfRange (latch (.writeCmd a ws) s)) ∨
            ((writeInRange aw dw a ws && startsEncodable aw (plan s.cfg.chunkWords a ws.length)) = true ∧
              ∃ q rest, plan s.cfg.chunkWords a ws.length = q :: rest ∧
                startWrite aw dw q (beginTransfer (latch (.writeCmd a ws) s)) = .next t)))) := by
  obtain ⟨hg, h⟩ := guarded_next h
  refine ⟨hg, ?_⟩
  split at h
  · rename_i hr
    split at h
    · rename_i aw dw ha hd
      refine .inr ⟨hr, aw, dw, ha, hd, ?_⟩
      split at h
      · rename_i hv
        split at h
        · rename_i q rest hq; exact .inr ⟨hv, q, rest, hq, h⟩
        · cases h
      · rename_i hv; cases h; exact .inl ⟨by simpa using hv, rfl⟩
    · cases h
  · rename_i hr; cases h; exact .inl ⟨by simpa using hr, rfl⟩

/-! Primitives write `bvResult` only (notes/assumptions/11). -/

theorem giveValue_next {v : BvValue} {s t : State} (h : giveValue v s = .next t) :
    t = { s with bvResult := some v } := by
  cases h; rfl

theorem exec_primitive_next {p : Primitive} {s t : State} (h : exec p.toInstr s = .next t) :
    ∃ v, t = { s with bvResult := some v } := by
  cases p with
  | fromUnsigned value width =>
    change execFromUnsigned value width s = .next t at h
    unfold execFromUnsigned at h
    split at h
    · exact ⟨_, giveValue_next h⟩
    · cases h
  | slice v start stop =>
    change execSlice v start stop s = .next t at h
    unfold execSlice at h
    split at h
    · exact ⟨_, giveValue_next h⟩
    · cases h
  | toUnsigned v => exact ⟨_, giveValue_next h⟩
  | length v => exact ⟨_, giveValue_next h⟩
  | concat a b => exact ⟨_, giveValue_next h⟩
  | eq a b => exact ⟨_, giveValue_next h⟩

/-! The sequencer -/

theorem receiveFrame_next {s t : State} (h : receiveFrame s = .next t) :
    (∃ i, decodeFrame s.cfg (frameWidths s) s.eng.txbuf = .ok i ∧ exec i s = .next t) ∨
      (s.env.peer = .oracle ∧ frameSent s = true ∧ t = endTx [] s) := by
  unfold receiveFrame at h
  split at h
  · rename_i i hi; exact .inl ⟨i, hi, h⟩
  · split at h
    · rename_i hp
      obtain ⟨hs, ht⟩ := guarded_next h
      cases ht; exact .inr ⟨hp, hs, rfl⟩
    · cases h

theorem betweenChunks_next {b : Bool} {s t : State} (h : betweenChunks b s = .next t) :
    (b = true ∧ t = raiseFailure .cancelled (emitProgress s)) ∨
      (b = false ∧ startCurrent (emitProgress s) = .next t) := by
  cases b with
  | true => cases h; exact .inl ⟨rfl, rfl⟩
  | false => exact .inr ⟨rfl, h⟩

theorem idleStep_next {x : Inputs} {s t : State} (h : idleStep x s = .next t) :
    (s.busy = true ∧ ∃ o, s.eng.outcome = some o ∧ collect o s = .next t) ∨
    (s.busy = true ∧ s.eng.outcome = none ∧ betweenChunks x.cancelReq s = .next t) ∨
    (s.busy = false ∧ ∃ i c cmd, pickPending x.pick s = some (i, c, cmd) ∧
      exec cmd.toInstr (grant i c s) = .next t) ∨
    (s.busy = false ∧ pickPending x.pick s = none ∧ t = s) := by
  unfold idleStep at h
  split at h
  · rename_i hb
    split at h
    · rename_i o ho; exact .inl ⟨hb, o, ho, h⟩
    · rename_i ho; exact .inr (.inl ⟨hb, ho, h⟩)
  · rename_i hb
    have hb : s.busy = false := by simpa using hb
    split at h
    · rename_i i c cmd hp; exact .inr (.inr (.inl ⟨hb, i, c, cmd, hp, h⟩))
    · rename_i hp; cases h; exact .inr (.inr (.inr ⟨hb, hp, rfl⟩))

theorem blockStep_next {x : Inputs} {s t : State} (h : blockStep x s = .next t) :
    (s.eng.ph = .tx ∧ s.eng.txi < s.eng.txbuf.length ∧ t = txBitStep s) ∨
    (s.eng.ph = .tx ∧ s.eng.txbuf.length ≤ s.eng.txi ∧ receiveFrame s = .next t) ∨
    (s.eng.ph = .rx ∧ 0 < s.eng.rxn ∧ t = rxBitStep x.rxBit s) ∨
    (s.eng.ph = .rx ∧ s.eng.rxn = 0 ∧ t = endRx s) ∨
    (s.eng.ph = .idle ∧ idleStep x s = .next t) := by
  unfold blockStep at h
  split at h
  · rename_i hp
    split at h
    · rename_i ht; cases h; exact .inl ⟨hp, ht, rfl⟩
    · rename_i ht; exact .inr (.inl ⟨hp, Nat.le_of_not_lt ht, h⟩)
  · rename_i hp
    split at h
    · rename_i hn; cases h; exact .inr (.inr (.inl ⟨hp, hn, rfl⟩))
    · rename_i hn; cases h; exact .inr (.inr (.inr (.inl ⟨hp, by omega, rfl⟩)))
  · rename_i hp; exact .inr (.inr (.inr (.inr ⟨hp, h⟩)))

end Sys2Proof.Proofs
end

