-- ==== Sys2Proof/Proofs/Constants.lean ====
section
/-! The constants of one framer (spec/00_scope.md R8, spec/10_state.md R24) and of what stands behind its
link (spec/20_memory.md R66): no step changes them. The proof follows the step function down to the shared
operations; only two of those write the peer, a WRITE frame and a cut exchange, and both write its memory
alone. -/

namespace Sys2Proof.Proofs

open Machine Laws

/-- The constants of the peer: its widths, and none for the oracle peer. -/
def peerWidths : Peer → Option (Nat × Nat)
  | .oracle => none
  | .reference paw pdw _ => some (paw, pdw)

theorem peerWidths_eq_none_iff (p : Peer) : peerWidths p = none ↔ p = .oracle := by
  cases p <;> simp [peerWidths]

theorem peerWidths_eq_some_iff (p : Peer) (paw pdw : Nat) :
    peerWidths p = some (paw, pdw) ↔ ∃ m, p = .reference paw pdw m := by
  cases p <;> simp [peerWidths]

/-- A completed WRITE frame changes the peer's memory only (R69). -/
@[simp] theorem peerWidths_peerWrite (a : Nat) (ws : List Nat) (p : Peer) :
    peerWidths (peerWrite a ws p) = peerWidths p := by
  cases p <;> rfl

/-- A cut exchange changes the peer's memory only (R70). -/
theorem peerWidths_peerCut {c : Config} {e : Engine} {j : Nat} {p q : Peer} (h : peerCut c e j p = some q) :
    peerWidths q = peerWidths p := by
  cases p with
  | oracle => cases h; rfl
  | reference paw pdw m =>
    simp only [peerCut] at h
    split at h
    · split at h
      · cases h; rfl
      · cases h; rfl
      · cases h
    · cases h; rfl

/-- `t` is the same framer as `s`, on a link to the same kind of peer with the same widths. -/
structure SameInstance (s t : State) : Prop where
  cfg : t.cfg = s.cfg
  widths : peerWidths t.env.peer = peerWidths s.env.peer

theorem SameInstance.trans {s t u : State} (h : SameInstance s t) (k : SameInstance t u) : SameInstance s u :=
  ⟨k.cfg.trans h.cfg, k.widths.trans h.widths⟩

/-- What writes neither the configuration nor the peer. -/
theorem SameInstance.of_peer {s t : State} (hc : t.cfg = s.cfg) (hp : t.env.peer = s.env.peer) :
    SameInstance s t :=
  ⟨hc, congrArg peerWidths hp⟩

/-! Starting an exchange -/

theorem startSize_sameInstance {s t : State} (h : startSize s = .next t) : SameInstance s t := by
  obtain ⟨-, rfl⟩ := startSize_next h
  exact .of_peer rfl rfl

theorem startRead_sameInstance {aw dw : Nat} {q : Nat × Nat} {s t : State}
    (h : startRead aw dw q s = .next t) : SameInstance s t := by
  obtain ⟨-, f, -, rfl⟩ := startRead_next h
  exact .of_peer rfl rfl

theorem startWrite_sameInstance {aw dw : Nat} {q : Nat × Nat} {s t : State}
    (h : startWrite aw dw q s = .next t) : SameInstance s t := by
  obtain ⟨-, f, -, rfl⟩ := startWrite_next h
  exact .of_peer rfl rfl

theorem latch_sameInstance (c : Command) (s : State) : SameInstance s (latch c s) :=
  .of_peer (by simp) (by simp)

theorem beginTransfer_latch_sameInstance (c : Command) (s : State) :
    SameInstance s (beginTransfer (latch c s)) :=
  .of_peer (by simp) (by simp)

theorem raiseFailure_latch_sameInstance (k : Status) (c : Command) (s : State) :
    SameInstance s (raiseFailure k (latch c s)) :=
  .of_peer (by simp) (by simp)

theorem endTx_sameInstance (ans : List (Option Bool)) (s : State) : SameInstance s (endTx ans s) :=
  .of_peer (by simp) (by simp)

/-! Instructions -/

theorem execWriteFrame_sameInstance {a : Nat} {ws : List Nat} {s t : State}
    (h : execWriteFrame a ws s = .next t) : SameInstance s t := by
  obtain ⟨-, rfl⟩ := execWriteFrame_next h
  exact ⟨by simp, by simp⟩

theorem execInit_sameInstance {s t : State} (h : execInit s = .next t) : SameInstance s t := by
  obtain ⟨-, -, hs⟩ := execInit_next h
  exact (latch_sameInstance _ s).trans (startSize_sameInstance hs)

theorem execSizeq_sameInstance {s t : State} (h : execSizeq s = .next t) : SameInstance s t := by
  obtain ⟨-, ⟨-, rfl⟩ | ⟨-, aw, dw, -, -, rfl⟩⟩ := execSizeq_next h
  · exact raiseFailure_latch_sameInstance _ _ s
  · exact .of_peer (by simp) (by simp)

theorem execRead_sameInstance {a n : Nat} {s t : State} (h : execRead a n s = .next t) :
    SameInstance s t := by
  obtain ⟨-, ⟨-, rfl⟩ | ⟨-, aw, dw, -, -, ⟨-, rfl⟩ | ⟨-, q, rest, -, hs⟩⟩⟩ := execRead_next h
  · exact raiseFailure_latch_sameInstance _ _ s
  · exact raiseFailure_latch_sameInstance _ _ s
  · exact (beginTransfer_latch_sameInstance _ s).trans (startRead_sameInstance hs)

theorem execWrite_sameInstance {a : Nat} {ws : List WriteWord} {s t : State} (h : execWrite a ws s = .next t) :
    SameInstance s t := by
  obtain ⟨-, ⟨-, rfl⟩ | ⟨-, aw, dw, -, -, ⟨-, rfl⟩ | ⟨-, q, rest, -, hs⟩⟩⟩ := execWrite_next h
  · exact raiseFailure_latch_sameInstance _ _ s
  · exact raiseFailure_latch_sameInstance _ _ s
  · exact (beginTransfer_latch_sameInstance _ s).trans (startWrite_sameInstance hs)

theorem exec_primitive_sameInstance (p : Primitive) {s t : State} (h : exec p.toInstr s = .next t) :
    SameInstance s t := by
  obtain ⟨v, rfl⟩ := exec_primitive_next h
  exact .of_peer rfl rfl

theorem exec_sameInstance {i : Instr} {s t : State} (h : exec i s = .next t) : SameInstance s t := by
  cases i with
  | nop => obtain ⟨-, rfl⟩ := execNop_next h; exact endTx_sameInstance _ s
  | size => obtain ⟨-, rfl⟩ := execSize_next h; exact endTx_sameInstance _ s
  | readFrame a => obtain ⟨-, rfl⟩ := execReadFrame_next h; exact endTx_sameInstance _ s
  | writeFrame a ws => exact execWriteFrame_sameInstance h
  | initCmd => exact execInit_sameInstance h
  | sizeqCmd => exact execSizeq_sameInstance h
  | readCmd a n => exact execRead_sameInstance h
  | writeCmd a ws => exact execWrite_sameInstance h
  | bvFromUnsigned v w => exact exec_primitive_sameInstance (.fromUnsigned v w) h
  | bvToUnsigned v => exact exec_primitive_sameInstance (.toUnsigned v) h
  | bvLength v => exact exec_primitive_sameInstance (.length v) h
  | bvConcat a b => exact exec_primitive_sameInstance (.concat a b) h
  | bvSlice v a b => exact exec_primitive_sameInstance (.slice v a b) h
  | bvEq a b => exact exec_primitive_sameInstance (.eq a b) h

/-! The sequencer -/

theorem finishInit_sameInstance (s : State) : SameInstance s (finishInit s) := by
  obtain ⟨aw, dw, -, -, h⟩ | ⟨aw, dw, -, -, -, h⟩ | ⟨-, h⟩ := finishInit_cases s
  all_goals rw [h]; exact .of_peer rfl rfl

theorem finishSub_sameInstance (k n : Nat) (ws : List Nat) (r : Bool) (s : State) :
    SameInstance s (finishSub k n ws r s) := by
  simp only [finishSub]
  split <;> exact .of_peer rfl rfl

theorem finishTransfer_sameInstance {r : Bool} {s t : State} (h : finishTransfer r s = .next t) :
    SameInstance s t := by
  obtain ⟨p, q, -, -, rfl⟩ := finishTransfer_next h
  exact finishSub_sameInstance _ _ _ _ s

theorem collect_sameInstance {o : XchgOutcome} {s t : State} (h : collect o s = .next t) :
    SameInstance s t := by
  obtain ⟨-, rfl⟩ | ⟨-, rfl⟩ | ⟨r, -, -, rfl⟩ | ⟨r, -, -, hr⟩ | ⟨r, -, -, hw⟩ := collect_next h
  · exact .of_peer rfl rfl
  · exact .of_peer rfl rfl
  · exact finishInit_sameInstance s
  · exact finishTransfer_sameInstance hr
  · exact finishTransfer_sameInstance hw

theorem startCurrent_sameInstance {s t : State} (h : startCurrent s = .next t) : SameInstance s t := by
  obtain ⟨p, aw, dw, q, -, -, -, -, ⟨-, hr⟩ | ⟨-, hw⟩⟩ := startCurrent_next h
  · exact startRead_sameInstance hr
  · exact startWrite_sameInstance hw

theorem betweenChunks_sameInstance {b : Bool} {s t : State} (h : betweenChunks b s = .next t) :
    SameInstance s t := by
  have hp : SameInstance s (emitProgress s) := .of_peer rfl rfl
  obtain ⟨-, rfl⟩ | ⟨-, hs⟩ := betweenChunks_next h
  · exact hp.trans (.of_peer rfl rfl)
  · exact hp.trans (startCurrent_sameInstance hs)

theorem receiveFrame_sameInstance {s t : State} (h : receiveFrame s = .next t) : SameInstance s t := by
  obtain ⟨i, -, hi⟩ | ⟨-, -, rfl⟩ := receiveFrame_next h
  · exact exec_sameInstance hi
  · exact endTx_sameInstance _ s

theorem idleStep_sameInstance {x : Inputs} {s t : State} (h : idleStep x s = .next t) :
    SameInstance s t := by
  obtain ⟨-, o, -, hc⟩ | ⟨-, -, hb⟩ | ⟨-, i, c, cmd, -, he⟩ | ⟨-, -, rfl⟩ := idleStep_next h
  · exact collect_sameInstance hc
  · exact betweenChunks_sameInstance hb
  · have hg : SameInstance s (grant i c s) := .of_peer rfl rfl
    exact hg.trans (exec_sameInstance he)
  · exact .of_peer rfl rfl

theorem blockStep_sameInstance {x : Inputs} {s t : State} (h : blockStep x s = .next t) :
    SameInstance s t := by
  obtain ⟨-, -, rfl⟩ | ⟨-, -, hr⟩ | ⟨-, -, rfl⟩ | ⟨-, -, rfl⟩ | ⟨-, hi⟩ := blockStep_next h
  · exact .of_peer rfl rfl
  · exact receiveFrame_sameInstance hr
  · exact .of_peer rfl rfl
  · exact .of_peer rfl rfl
  · exact idleStep_sameInstance hi

theorem breakExchange_sameInstance {o : XchgOutcome} {j : Nat} {s t : State}
    (h : breakExchange o j s = .next t) : SameInstance s t := by
  obtain ⟨-, rfl⟩ | ⟨-, p, hp, rfl⟩ := breakExchange_next h
  · exact .of_peer rfl rfl
  · exact ⟨rfl, peerWidths_peerCut hp⟩

theorem stepMove_sameInstance {m : Move} {s t : State} (h : stepMove m s = .next t) : SameInstance s t := by
  cases m with
  | tick x => exact blockStep_sameInstance h
  | call c cmd => obtain ⟨-, rfl⟩ := present_next h; exact .of_peer rfl rfl
  | linkFail j => exact breakExchange_sameInstance h
  | linkAbort j => exact breakExchange_sameInstance h
  | reset => obtain ⟨-, -, rfl⟩ := resetBlock_next h; exact .of_peer rfl rfl
  | silence => cases h; exact .of_peer rfl rfl
  | evaluate p => exact exec_primitive_sameInstance p h

theorem takeMove_sameInstance (s : State) : SameInstance s (takeMove s).2 := by
  obtain ⟨script, draws, h⟩ := takeMove_frame s
  rw [h]; exact .of_peer rfl rfl

theorem step_sameInstance {s t : State} (h : step s = .next t) : SameInstance s t :=
  (takeMove_sameInstance s).trans (stepMove_sameInstance h)

/-- Settles O58: every step keeps the configuration and the peer's widths, and the widths tell the kind of
peer. -/
theorem theConfigurationIsConstant : Obligations.TheConfigurationIsConstant := by
  intro s t h
  obtain ⟨hcfg, hwidths⟩ := step_sameInstance h
  refine ⟨hcfg, fun hp => ?_, fun paw pdw m hp => ?_⟩
  · rw [← peerWidths_eq_none_iff, hwidths, hp]; rfl
  · rw [← peerWidths_eq_some_iff, hwidths, hp]; rfl

end Sys2Proof.Proofs
end

section
/-! What a step does to all that outlives a command: lifecycle and widths (spec/10_state.md R21 to R23), the
waiting commands and the exclusion (R25, R38). Nearly every step keeps them or gives the exclusion back; the
others are a grant, the end of INITIALIZE, a call and a reset. -/

namespace Sys2Proof.Proofs

open Machine Laws

/-- `t` follows `s` with lifecycle, widths and waiting commands unchanged, the exclusion kept or given back. -/
structure Continues (s t : State) : Prop where
  lc : t.lc = s.lc
  aw : t.aw = s.aw
  dw : t.dw = s.dw
  pending : t.pending = s.pending
  exclusion : t.busy = s.busy ∧ t.owner = s.owner ∨ t.busy = false

theorem Continues.trans {s t u : State} (h : Continues s t) (k : Continues t u) : Continues s u where
  lc := k.lc.trans h.lc
  aw := k.aw.trans h.aw
  dw := k.dw.trans h.dw
  pending := k.pending.trans h.pending
  exclusion := by
    obtain ⟨hb, ho⟩ | hfree := k.exclusion
    · rw [hb, ho]; exact h.exclusion
    · exact .inr hfree

theorem continues_refl (s : State) : Continues s s := ⟨rfl, rfl, rfl, rfl, .inl ⟨rfl, rfl⟩⟩

/-! The shared operations -/

theorem release_continues (st : Status) (d : RetData) (s : State) : Continues s (release st d s) :=
  ⟨rfl, rfl, rfl, rfl, .inr rfl⟩

theorem loadExchange_continues (p : Bits) (n k : Nat) (w : Option Nat) (s : State) :
    Continues s (loadExchange p n k w s) :=
  ⟨rfl, rfl, rfl, rfl, .inl ⟨rfl, rfl⟩⟩

theorem latch_continues (c : Command) (s : State) : Continues s (latch c s) := by
  constructor <;> simp

theorem beginTransfer_continues (s : State) : Continues s (beginTransfer s) :=
  ⟨rfl, rfl, rfl, rfl, .inl ⟨rfl, rfl⟩⟩

theorem withPeer_continues (p : Peer) (s : State) :
    Continues s { s with env := { s.env with peer := p } } :=
  ⟨rfl, rfl, rfl, rfl, .inl ⟨rfl, rfl⟩⟩

theorem endTx_continues (ans : List (Option Bool)) (s : State) : Continues s (endTx ans s) := by
  constructor <;> simp

theorem startSize_continues {s t : State} (h : startSize s = .next t) : Continues s t := by
  obtain ⟨-, rfl⟩ := startSize_next h
  exact loadExchange_continues _ _ _ _ s

theorem startRead_continues {aw dw : Nat} {q : Nat × Nat} {s t : State}
    (h : startRead aw dw q s = .next t) : Continues s t := by
  obtain ⟨-, f, -, rfl⟩ := startRead_next h
  exact loadExchange_continues _ _ _ _ s

theorem startWrite_continues {aw dw : Nat} {q : Nat × Nat} {s t : State}
    (h : startWrite aw dw q s = .next t) : Continues s t := by
  obtain ⟨-, f, -, rfl⟩ := startWrite_next h
  exact loadExchange_continues _ _ _ _ s

/-! Instructions -/

/-- A frame received ends `TX`, with some answer and the peer as it was or written by the frame (R134, R69). -/
theorem exec_frame_next {i : Instr} {s t : State} (hi : i.isFrame = true) (h : exec i s = .next t) :
    frameSent s = true ∧ ∃ ans p,
      (p = s.env.peer ∨ ∃ a ws, i = .writeFrame a ws ∧ p = peerWrite a ws s.env.peer) ∧
      t = endTx ans { s with env := { s.env with peer := p } } := by
  cases i with
  | nop => obtain ⟨hs, ht⟩ := execNop_next h; exact ⟨hs, _, _, .inl rfl, ht⟩
  | size => obtain ⟨hs, ht⟩ := execSize_next h; exact ⟨hs, _, _, .inl rfl, ht⟩
  | readFrame a => obtain ⟨hs, ht⟩ := execReadFrame_next h; exact ⟨hs, _, _, .inl rfl, ht⟩
  | writeFrame a ws => obtain ⟨hs, ht⟩ := execWriteFrame_next h; exact ⟨hs, _, _, .inr ⟨a, ws, rfl, rfl⟩, ht⟩
  | initCmd | sizeqCmd | readCmd | writeCmd => cases hi
  | bvFromUnsigned | bvToUnsigned | bvLength | bvConcat | bvSlice | bvEq => cases hi

/-- A granted command returns at once or starts its first exchange. -/
theorem exec_command_continues {c : Command} {s t : State} (h : exec c.toInstr s = .next t) :
    Continues s t := by
  cases c with
  | initCmd =>
    obtain ⟨-, -, hs⟩ := execInit_next h
    exact (latch_continues _ s).trans (startSize_continues hs)
  | sizeqCmd =>
    obtain ⟨-, ⟨-, rfl⟩ | ⟨-, aw, dw, -, -, rfl⟩⟩ := execSizeq_next h
    · exact (latch_continues _ s).trans (release_continues _ _ _)
    · exact (latch_continues _ s).trans (release_continues _ _ _)
  | readCmd a n =>
    obtain ⟨-, ⟨-, rfl⟩ | ⟨-, aw, dw, -, -, ⟨-, rfl⟩ | ⟨-, q, rest, -, hs⟩⟩⟩ := execRead_next h
    · exact (latch_continues _ s).trans (release_continues _ _ _)
    · exact (latch_continues _ s).trans (release_continues _ _ _)
    · exact ((latch_continues _ s).trans (beginTransfer_continues _)).trans (startRead_continues hs)
  | writeCmd a ws =>
    obtain ⟨-, ⟨-, rfl⟩ | ⟨-, aw, dw, -, -, ⟨-, rfl⟩ | ⟨-, q, rest, -, hs⟩⟩⟩ := execWrite_next h
    · exact (latch_continues _ s).trans (release_continues _ _ _)
    · exact (latch_continues _ s).trans (release_continues _ _ _)
    · exact ((latch_continues _ s).trans (beginTransfer_continues _)).trans (startWrite_continues hs)

theorem exec_primitive_continues (p : Primitive) {s t : State} (h : exec p.toInstr s = .next t) :
    Continues s t := by
  obtain ⟨v, rfl⟩ := exec_primitive_next h
  exact ⟨rfl, rfl, rfl, rfl, .inl ⟨rfl, rfl⟩⟩

/-! The sequencer -/

/-- The end of `TX` whatever was received (R134): frames that do not decode change no peer. -/
theorem receiveFrame_endTx {s t : State} (h : receiveFrame s = .next t) :
    frameSent s = true ∧ ∃ ans p,
      (p = s.env.peer ∨ ∃ a ws, decodeFrame s.cfg (frameWidths s) s.eng.txbuf = .ok (.writeFrame a ws) ∧
        p = peerWrite a ws s.env.peer) ∧
      t = endTx ans { s with env := { s.env with peer := p } } := by
  obtain ⟨i, hd, hi⟩ | ⟨-, hs, ht⟩ := receiveFrame_next h
  · obtain ⟨hs, ans, p, hp, ht⟩ := exec_frame_next (decodeFrame_isFrame hd) hi
    refine ⟨hs, ans, p, hp.imp id ?_, ht⟩
    rintro ⟨a, ws, rfl, hw⟩
    exact ⟨a, ws, hd, hw⟩
  · exact ⟨hs, [], s.env.peer, .inl rfl, ht⟩

theorem receiveFrame_continues {s t : State} (h : receiveFrame s = .next t) : Continues s t := by
  obtain ⟨-, ans, p, -, rfl⟩ := receiveFrame_endTx h
  exact (withPeer_continues p s).trans (endTx_continues ans _)

theorem finishSub_continues (k n : Nat) (ws : List Nat) (r : Bool) (s : State) :
    Continues s (finishSub k n ws r s) := by
  simp only [finishSub]
  split
  · exact ⟨rfl, rfl, rfl, rfl, .inl ⟨rfl, rfl⟩⟩
  · exact ⟨rfl, rfl, rfl, rfl, .inr rfl⟩

theorem finishTransfer_continues {r : Bool} {s t : State} (h : finishTransfer r s = .next t) :
    Continues s t := by
  obtain ⟨p, q, -, -, rfl⟩ := finishTransfer_next h
  exact finishSub_continues _ _ _ _ s

/-- Only the end of INITIALIZE touches the lifecycle when a command acts on its outcome. -/
theorem collect_continues {o : XchgOutcome} {s t : State} (h : collect o s = .next t) :
    Continues s t ∨ ((∃ r, o = .ok r) ∧ s.cmd.op = some .initCmd ∧ t = finishInit s) := by
  obtain ⟨-, rfl⟩ | ⟨-, rfl⟩ | ⟨r, ho, hop, ht⟩ | ⟨r, -, -, hr⟩ | ⟨r, -, -, hw⟩ := collect_next h
  · exact .inl (release_continues _ _ s)
  · exact .inl (release_continues _ _ s)
  · exact .inr ⟨⟨r, ho⟩, hop, ht⟩
  · exact .inl (finishTransfer_continues hr)
  · exact .inl (finishTransfer_continues hw)

theorem betweenChunks_continues {b : Bool} {s t : State} (h : betweenChunks b s = .next t) :
    Continues s t := by
  have hp : Continues s (emitProgress s) := ⟨rfl, rfl, rfl, rfl, .inl ⟨rfl, rfl⟩⟩
  obtain ⟨-, rfl⟩ | ⟨-, hs⟩ := betweenChunks_next h
  · exact hp.trans (release_continues _ _ _)
  · obtain ⟨p, aw, dw, q, -, -, -, -, ⟨-, hr⟩ | ⟨-, hw⟩⟩ := startCurrent_next hs
    · exact hp.trans (startRead_continues hr)
    · exact hp.trans (startWrite_continues hw)

theorem breakExchange_continues {o : XchgOutcome} {j : Nat} {s t : State}
    (h : breakExchange o j s = .next t) : Continues s t := by
  obtain ⟨-, rfl⟩ | ⟨-, p, -, rfl⟩ := breakExchange_next h
  · exact continues_refl _
  · exact ⟨rfl, rfl, rfl, rfl, .inl ⟨rfl, rfl⟩⟩

/-- The five effects a move can have on all that outlives a command. -/
inductive MoveEffect (m : Move) (s t : State) : Prop where
  | continues (h : Continues s t)
  | grants (i : Nat) (c : Caller) (hfree : s.busy = false) (h : Continues (grant i c s) t)
  | initializes (hbusy : s.busy = true) (hop : s.cmd.op = some .initCmd) (ht : t = finishInit s)
  | presents (c : Caller) (cmd : Command)
      (ht : t = record (.call c cmd) { s with pending := s.pending ++ [(c, cmd)] })
  | resets (hm : m = .reset) (hfree : s.busy = false)
      (ht : t = State.constructed s.cfg { s.env with answer := [] } s.history)

theorem idleStep_effect {x : Inputs} {s t : State} (m : Move) (h : idleStep x s = .next t) :
    MoveEffect m s t := by
  obtain ⟨hb, o, -, hc⟩ | ⟨-, -, hb⟩ | ⟨hf, i, c, cmd, -, he⟩ | ⟨-, -, rfl⟩ := idleStep_next h
  · obtain hc | ⟨-, hop, ht⟩ := collect_continues hc
    · exact .continues hc
    · exact .initializes hb hop ht
  · exact .continues (betweenChunks_continues hb)
  · exact .grants i c hf (exec_command_continues he)
  · exact .continues (continues_refl _)

theorem blockStep_effect {x : Inputs} {s t : State} (m : Move) (h : blockStep x s = .next t) :
    MoveEffect m s t := by
  obtain ⟨-, -, rfl⟩ | ⟨-, -, hr⟩ | ⟨-, -, rfl⟩ | ⟨-, -, rfl⟩ | ⟨-, hi⟩ := blockStep_next h
  · exact .continues ⟨rfl, rfl, rfl, rfl, .inl ⟨rfl, rfl⟩⟩
  · exact .continues (receiveFrame_continues hr)
  · exact .continues ⟨rfl, rfl, rfl, rfl, .inl ⟨rfl, rfl⟩⟩
  · exact .continues ⟨rfl, rfl, rfl, rfl, .inl ⟨rfl, rfl⟩⟩
  · exact idleStep_effect m hi

theorem stepMove_effect {m : Move} {s t : State} (h : stepMove m s = .next t) : MoveEffect m s t := by
  cases m with
  | tick x => exact blockStep_effect _ h
  | call c cmd => obtain ⟨-, ht⟩ := present_next h; exact .presents c cmd ht
  | linkFail j => exact .continues (breakExchange_continues h)
  | linkAbort j => exact .continues (breakExchange_continues h)
  | reset => obtain ⟨hf, -, ht⟩ := resetBlock_next h; exact .resets rfl hf ht
  | silence => cases h; exact .continues (continues_refl _)
  | evaluate p => exact .continues (exec_primitive_continues p h)

/-- The end of INITIALIZE is a return (R161 step 7). -/
theorem finishInit_busy (s : State) : (finishInit s).busy = false := by
  obtain ⟨aw, dw, -, -, h⟩ | ⟨aw, dw, -, -, -, h⟩ | ⟨-, h⟩ := finishInit_cases s
  all_goals rw [h]; rfl

/-- Settles O47: of the five effects, a busy block that stays busy can have only the first and the call. -/
theorem heldCommandsMakeNoStep : Obligations.HeldCommandsMakeNoStep := by
  intro s t hbusy hstep htbusy
  obtain ⟨script, draws, hu⟩ := takeMove_frame s
  rw [step_eq, hu] at hstep
  cases stepMove_effect hstep with
  | continues h =>
    obtain ⟨-, howner⟩ | hfree := h.exclusion
    · exact ⟨howner, [], by simpa using h.pending⟩
    · simp [hfree] at htbusy
  | grants i c hfree h => simp [hbusy] at hfree
  | initializes hb hop ht => simp [ht, finishInit_busy] at htbusy
  | presents c cmd ht => subst ht; exact ⟨rfl, [(c, cmd)], rfl⟩
  | resets hm hfree ht => simp [hbusy] at hfree

end Sys2Proof.Proofs
end

section
/-! The invariant of the machine (Safety.lean) as propositions with named parts: what holds whatever the command
does (`Ground`), and where the command in progress stands (`Stage`). -/

namespace Sys2Proof.Proofs

open Machine Laws

/-! The parts of the invariant -/

/-- `exclusionOk`, part by part (spec/10_state.md R25, R38). -/
structure Exclusion (s : State) : Prop where
  owned : s.busy = s.owner.isSome
  free : s.busy = false → s.eng.ph = .idle ∧ s.eng.outcome = none
  running : s.eng.ph ≠ .idle → s.eng.outcome = none
  callers : (s.pending.map (·.1)).Nodup
  waiting : ∀ p ∈ s.pending, s.owner ≠ some p.1

theorem exclusionOk_iff (s : State) : exclusionOk s = true ↔ Exclusion s := by
  simp only [exclusionOk, Bool.and_eq_true, Bool.or_eq_true, beq_iff_eq, bne_iff_ne, decide_eq_true_eq,
    List.all_eq_true, Option.isNone_iff_eq_none]
  constructor
  · rintro ⟨⟨⟨⟨howned, hfree⟩, hrun⟩, hcallers⟩, hwaiting⟩
    exact ⟨howned, fun hb => hfree.resolve_left (by simp [hb]), hrun.resolve_left, hcallers, hwaiting⟩
  · rintro ⟨howned, hfree, hrun, hcallers, hwaiting⟩
    refine ⟨⟨⟨⟨howned, ?_⟩, ?_⟩, hcallers⟩, hwaiting⟩
    · cases hb : s.busy with
      | true => exact .inl rfl
      | false => exact .inr (hfree hb)
    · exact or_iff_not_imp_left.2 hrun

theorem Exclusion.busy_of_running {s : State} (h : Exclusion s) (hp : s.eng.ph ≠ .idle) : s.busy = true := by
  cases hb : s.busy with
  | true => rfl
  | false => exact absurd (h.free hb).1 hp

theorem lifecycleOk_ready {s : State} (h : s.lc = .ready) :
    lifecycleOk s = true ↔ ∃ a d, s.aw = some a ∧ s.dw = some d ∧
      1 ≤ a ∧ 1 ≤ d ∧ a < 2 ^ s.cfg.fieldBits ∧ d < 2 ^ s.cfg.fieldBits := by
  unfold lifecycleOk
  rw [h]
  cases ha : s.aw with
  | none => simp
  | some a =>
    cases hd : s.dw with
    | none => simp
    | some d => simp [and_assoc]

theorem lifecycleOk_not_ready {s : State} (h : s.lc ≠ .ready) :
    lifecycleOk s = true ↔ s.aw = none ∧ s.dw = none := by
  unfold lifecycleOk
  cases hl : s.lc with
  | ready => exact absurd hl h
  | uninitialized | dead => cases s.aw <;> cases s.dw <;> simp

/-- A data width in force is at least 1 (R23). -/
theorem dw_pos {s : State} {d : Nat} (h : lifecycleOk s = true) (hd : s.dw = some d) : 1 ≤ d := by
  by_cases hl : s.lc = .ready
  · obtain ⟨a, d', -, hd', -, hpos, -⟩ := (lifecycleOk_ready hl).1 h
    rw [hd] at hd'; cases hd'; exact hpos
  · have hnone := ((lifecycleOk_not_ready hl).1 h).2
    rw [hd] at hnone; cases hnone

/-- What the invariant says whatever the command in progress does. -/
structure Ground (s : State) : Prop where
  legal : s.cfg.legal = true
  peer : peerWf s.cfg.fieldBits s.env.peer = true
  exclusion : Exclusion s
  lifecycle : lifecycleOk s = true
  sent : s.eng.txi ≤ s.eng.txbuf.length

/-- `exchangeOk`, part by part, for an engine in an exchange that has this frame, asks for `n` bits, skips `skip`
of them and cuts the rest into words of `wlen` bits (R33, R34, R36, R136, R144). -/
structure ExchangeAt (frame : Option Bits) (n skip wlen : Nat) (e : Engine) : Prop where
  frame : frame = some e.txbuf
  count : e.rxbuf.length + e.rxn = n
  skipped : e.skip = skip - e.rxbuf.length
  word : e.wlen = some wlen
  inWord : e.wacc.length < wlen
  fits : ∀ w ∈ e.xq, w < 2 ^ wlen
  stream : (e.xq.flatMap fun w => natToBits w wlen) ++ e.wacc = e.rxbuf.drop skip
  silent : e.ph = .tx → e.rxbuf = []
  asked : e.ph = .rx → 0 < n

theorem exchangeOk_iff (s : State) :
    exchangeOk s = true ↔ ∃ i n skip wlen, currentExchange s = some (i, n, skip, wlen) ∧
      ExchangeAt (encode s.cfg (s.aw.getD 0) (s.dw.getD 0) i) n skip wlen s.eng := by
  unfold exchangeOk
  cases hx : currentExchange s with
  | none => simp
  | some x =>
    obtain ⟨i, n, skip, wlen⟩ := x
    simp only [Bool.and_eq_true, Bool.or_eq_true, beq_iff_eq, bne_iff_ne, decide_eq_true_eq, List.all_eq_true,
      List.isEmpty_iff, Option.some.injEq, Prod.mk.injEq]
    constructor
    · rintro ⟨⟨⟨⟨⟨⟨⟨⟨hf, hc⟩, hs⟩, hw⟩, ho⟩, hfit⟩, hst⟩, htx⟩, hrx⟩
      exact ⟨i, n, skip, wlen, ⟨rfl, rfl, rfl, rfl⟩, hf, hc, hs, hw, ho, hfit, hst,
        fun hp => htx.resolve_left (not_not.2 hp), fun hp => hrx.resolve_left (not_not.2 hp)⟩
    · rintro ⟨_, _, _, _, ⟨rfl, rfl, rfl, rfl⟩, ⟨hf, hc, hs, hw, ho, hfit, hst, htx, hrx⟩⟩
      exact ⟨⟨⟨⟨⟨⟨⟨⟨hf, hc⟩, hs⟩, hw⟩, ho⟩, hfit⟩, hst⟩, or_iff_not_imp_left.2 fun hp => htx (not_not.1 hp)⟩,
        or_iff_not_imp_left.2 fun hp => hrx (not_not.1 hp)⟩

/-- Where the command in progress stands (R31, R136, R138, R240). -/
inductive Stage (s : State) : Prop where
  | between (hi : s.eng.ph = .idle) (ho : s.eng.outcome = none) (hop : s.cmd.op ≠ some .initCmd)
      (hk : 1 ≤ s.cmd.ki)
  | ended (hi : s.eng.ph = .idle) (ho : s.eng.outcome = some (.ok s.eng.rxbuf)) (hx : exchangeOk s = true)
      (hn : s.eng.rxn = 0)
  | broken (hi : s.eng.ph = .idle) (o : XchgOutcome) (ho : s.eng.outcome = some o) (hf : ∀ r, o ≠ .ok r)
  | running (hp : s.eng.ph ≠ .idle) (hx : exchangeOk s = true)

theorem engineOk_iff (s : State) :
    engineOk s = true ↔ s.eng.txi ≤ s.eng.txbuf.length ∧
      (s.busy = true → commandOk s = true ∧ Stage s) := by
  unfold engineOk
  cases hb : s.busy with
  | false => simp
  | true =>
    simp only [Bool.not_true, Bool.false_or, Bool.and_eq_true, decide_eq_true_eq, true_implies]
    refine and_congr_right fun _ => and_congr_right fun _ => ?_
    split
    · rename_i hi ho
      simp only [Bool.and_eq_true, bne_iff_ne, decide_eq_true_eq]
      refine ⟨fun h => .between hi ho h.1 h.2, fun h => ?_⟩
      cases h with
      | between _ _ hop hk => exact ⟨hop, hk⟩
      | ended _ ho' | broken _ _ ho' => simp [ho] at ho'
      | running hp => exact absurd hi hp
    · rename_i r hi ho
      simp only [Bool.and_eq_true, beq_iff_eq]
      constructor
      · rintro ⟨⟨hx, rfl⟩, hn⟩
        exact .ended hi ho hx hn
      · intro h
        cases h with
        | between _ ho' => simp [ho] at ho'
        | ended _ ho' hx hn => exact ⟨⟨hx, by simpa [ho] using ho'⟩, hn⟩
        | broken _ o ho' hf => exact absurd (Option.some.inj (ho'.symm.trans ho)) (hf r)
        | running hp => exact absurd hi hp
    · rename_i o hok hi ho
      exact ⟨fun _ => .broken hi o ho hok, fun _ => rfl⟩
    · rename_i hnone _ hsome
      have hp : s.eng.ph ≠ .idle := fun hi => by
        cases ho : s.eng.outcome with
        | none => exact hnone hi ho
        | some o => exact hsome o hi ho
      refine ⟨fun hx => .running hp hx, fun h => ?_⟩
      cases h with
      | between hi | ended hi | broken hi => exact absurd hi hp
      | running _ hx => exact hx

theorem inv_iff (s : State) :
    inv s = true ↔ Ground s ∧ (s.busy = true → commandOk s = true ∧ Stage s) := by
  simp only [inv, Bool.and_eq_true, exclusionOk_iff, engineOk_iff]
  constructor
  · rintro ⟨⟨⟨⟨hc, hp⟩, hx⟩, hl⟩, ht, hs⟩
    exact ⟨⟨hc, hp, hx, hl, ht⟩, hs⟩
  · rintro ⟨⟨hc, hp, hx, hl, ht⟩, hs⟩
    exact ⟨⟨⟨⟨hc, hp⟩, hx⟩, hl⟩, ht, hs⟩

theorem inv_of_free {s : State} (g : Ground s) (h : s.busy = false) : inv s = true :=
  (inv_iff s).2 ⟨g, fun hb => by simp [h] at hb⟩

/-! The command in progress -/

/-- `commandOk.transferOk`, part by part: a READ or WRITE past its validation, at sub-transfer `KI` of the plan `p`
(R183, R203, R231, R232). -/
structure TransferAt (s : State) (p : List (Nat × Nat)) (n aw dw : Nat) : Prop where
  plan : currentPlan s = some p
  count : s.cmd.count = some n
  addressWidth : s.aw = some aw
  dataWidth : s.dw = some dw
  ready : s.lc = .ready
  words : 1 ≤ n
  starts : startsEncodable aw p = true
  index : s.cmd.ki < p.length
  done : s.cmd.doneWords = ((p.take s.cmd.ki).map (·.2)).sum
  rq : ∀ w ∈ s.cmd.rq, w < 2 ^ dw
  wq : ∀ w ∈ s.cmd.wq, w < 2 ^ dw

theorem transferOk_iff (s : State) :
    commandOk.transferOk s = true ↔ ∃ p n aw dw, TransferAt s p n aw dw := by
  unfold commandOk.transferOk
  constructor
  · intro h
    rcases hp : currentPlan s with - | p
    · simp [hp] at h
    rcases hn : s.cmd.count with - | n
    · simp [hn] at h
    rcases ha : s.aw with - | aw
    · simp [ha] at h
    rcases hd : s.dw with - | dw
    · simp [hd] at h
    simp only [hp, hn, ha, hd, Bool.and_eq_true, beq_iff_eq, decide_eq_true_eq, List.all_eq_true] at h
    obtain ⟨⟨⟨⟨⟨⟨hl, h1⟩, hs⟩, hk⟩, hdone⟩, hrq⟩, hwq⟩ := h
    exact ⟨p, n, aw, dw, hp, hn, ha, hd, hl, h1, hs, hk, hdone, hrq, hwq⟩
  · rintro ⟨p, n, aw, dw, hp, hn, ha, hd, hl, h1, hs, hk, hdone, hrq, hwq⟩
    simp only [hp, hn, ha, hd, Bool.and_eq_true, beq_iff_eq, decide_eq_true_eq, List.all_eq_true]
    exact ⟨⟨⟨⟨⟨⟨hl, h1⟩, hs⟩, hk⟩, hdone⟩, hrq⟩, hwq⟩

theorem commandOk_init {s : State} (h : s.cmd.op = some .initCmd) :
    commandOk s = true ↔ s.lc = .uninitialized := by
  simp [commandOk, h]

theorem commandOk_read {s : State} (h : s.cmd.op = some .readCmd) :
    commandOk s = true ↔ (∃ p n aw dw, TransferAt s p n aw dw) ∧ s.cmd.rq.length = s.cmd.doneWords := by
  simp [commandOk, h, transferOk_iff]

theorem commandOk_write {s : State} (h : s.cmd.op = some .writeCmd) :
    commandOk s = true ↔ (∃ p n aw dw, TransferAt s p n aw dw) ∧ some s.cmd.wq.length = s.cmd.count := by
  simp [commandOk, h, transferOk_iff]

theorem currentExchange_init {s : State} (h : s.cmd.op = some .initCmd) (hl : s.lc = .uninitialized) :
    currentExchange s = some (.size, s.cfg.sizeRespBits, 1, s.cfg.fieldBits) := by
  simp [currentExchange, h, hl]

theorem currentExchange_read {s : State} {p : List (Nat × Nat)} {dw : Nat} {q : Nat × Nat}
    (h : s.cmd.op = some .readCmd) (hp : currentPlan s = some p) (hd : s.dw = some dw)
    (hq : p[s.cmd.ki]? = some q) :
    currentExchange s = some (.readFrame q.1, (q.2 + 1) * dw, dw, dw) := by
  simp [currentExchange, h, hp, hd, hq]

theorem currentExchange_write {s : State} {p : List (Nat × Nat)} {dw : Nat} {q : Nat × Nat}
    (h : s.cmd.op = some .writeCmd) (hp : currentPlan s = some p) (hd : s.dw = some dw)
    (hq : p[s.cmd.ki]? = some q) :
    currentExchange s = some (.writeFrame q.1 (subWords q.2 s), 0, 0, dw) := by
  simp [currentExchange, h, hp, hd, hq]

end Sys2Proof.Proofs
end

section
/-! Every step keeps the invariant. A bit step of the engine keeps what `ExchangeAt` says; an exchange starts in a
state that meets `Ground` and whose command describes it; a command ends in a state that meets `Ground`. -/

namespace Sys2Proof.Proofs

open Machine Laws

/-! The engine of an exchange -/

/-- XSTART loads the exchange (R132, R140). -/
theorem exchangeAt_loaded (p : Bits) (n skip : Nat) {wlen : Nat} (hw : 0 < wlen) :
    ExchangeAt (some p) n skip wlen
      { ph := .tx, txbuf := p, txi := 0, rxn := n, rxbuf := [], skip := skip, wlen := some wlen,
        wacc := [], xq := [], outcome := none } where
  frame := rfl
  count := by simp
  skipped := rfl
  word := rfl
  inWord := hw
  fits := by simp
  stream := by simp
  silent _ := rfl
  asked := by simp

/-- A bit that completes a word appends its value; the bits of all words stay the same (R142). -/
theorem flatMap_natToBits_complete {wacc : Bits} {b : Bool} {w : Nat} (h : wacc.length + 1 = w) (xq : List Nat) :
    ((xq ++ [toUnsigned (wacc ++ [b])]).flatMap fun x => natToBits x w)
      = (xq.flatMap fun x => natToBits x w) ++ (wacc ++ [b]) := by
  have hl : (wacc ++ [b]).length = w := by simpa using h
  simp [natToBits_toUnsigned_of_length hl]

/-! The three things RXBIT can do with a bit (R135, R141, R142). -/

theorem sampleBit_dropped {e : Engine} (h : 0 < e.skip) (b : Bool) :
    sampleBit b e = { e with rxbuf := e.rxbuf ++ [b], rxn := e.rxn - 1, skip := e.skip - 1 } := by
  simp [sampleBit, latencyBit, h]

theorem sampleBit_completes {e : Engine} (h : e.skip = 0) (hw : e.wlen = some (e.wacc.length + 1)) (b : Bool) :
    sampleBit b e = { e with rxbuf := e.rxbuf ++ [b], rxn := e.rxn - 1, wacc := [],
                             xq := e.xq ++ [toUnsigned (e.wacc ++ [b])] } := by
  simp [sampleBit, latencyBit, partBit, h, hw]

theorem sampleBit_gathers {e : Engine} (h : e.skip = 0) (hw : e.wlen ≠ some (e.wacc.length + 1)) (b : Bool) :
    sampleBit b e = { e with rxbuf := e.rxbuf ++ [b], rxn := e.rxn - 1, wacc := e.wacc ++ [b] } := by
  simp [sampleBit, latencyBit, partBit, h, hw.symm]

/-- RXBIT keeps the exchange: the bits completed and in assembly stay the bits sampled after the skip. -/
theorem ExchangeAt.sampleBit {f : Option Bits} {n skip wlen : Nat} {e : Engine}
    (h : ExchangeAt f n skip wlen e) (hp : e.ph = .rx) (hn : 0 < e.rxn) (b : Bool) :
    ExchangeAt f n skip wlen (sampleBit b e) := by
  obtain ⟨hf, hc, hs, hw, ho, hfit, hst, -, hrx⟩ := h
  have hlen : (e.rxbuf ++ [b]).length = e.rxbuf.length + 1 := by simp
  have hwlen : (e.wacc ++ [b]).length = e.wacc.length + 1 := by simp
  have hcount : (e.rxbuf ++ [b]).length + (e.rxn - 1) = n := by omega
  have hsilent : e.ph = .tx → e.rxbuf ++ [b] = [] := by simp [hp]
  by_cases hskip : 0 < e.skip
  · have hskipped : e.skip - 1 = skip - (e.rxbuf ++ [b]).length := by omega
    have hold : e.rxbuf.drop skip = [] := List.drop_eq_nil_of_le (by omega)
    have hnew : (e.rxbuf ++ [b]).drop skip = [] := List.drop_eq_nil_of_le (by omega)
    rw [sampleBit_dropped hskip]
    exact ⟨hf, hcount, hskipped, hw, ho, hfit, hst.trans (hold.trans hnew.symm), hsilent, hrx⟩
  · have hskipped : e.skip = skip - (e.rxbuf ++ [b]).length := by omega
    have hnew : (e.rxbuf ++ [b]).drop skip = e.rxbuf.drop skip ++ [b] :=
      List.drop_append_of_le_length (by omega)
    by_cases hfull : e.wacc.length + 1 = wlen
    · have hval : toUnsigned (e.wacc ++ [b]) < 2 ^ wlen := hfull ▸ hwlen ▸ toUnsigned_lt (e.wacc ++ [b])
      rw [sampleBit_completes (by omega) (hfull ▸ hw)]
      refine ⟨hf, hcount, hskipped, hw, Nat.zero_lt_of_lt ho, ?_, ?_, hsilent, hrx⟩
      · intro x hx
        rcases List.mem_append.1 hx with hx | hx
        · exact hfit x hx
        · rwa [List.mem_singleton.1 hx]
      · rw [flatMap_natToBits_complete hfull, hnew, ← hst, List.append_nil, List.append_assoc]
    · have hopen : (e.wacc ++ [b]).length < wlen := by omega
      rw [sampleBit_gathers (by omega) (by simpa [hw] using Ne.symm hfull)]
      exact ⟨hf, hcount, hskipped, hw, hopen, hfit, by rw [hnew, ← hst, List.append_assoc], hsilent, hrx⟩

/-- Neither the transmitter's index nor the outcome matters, and the phase only by what it asks for. -/
theorem ExchangeAt.moved {f : Option Bits} {n skip wlen : Nat} {e : Engine} (h : ExchangeAt f n skip wlen e)
    {ph : Phase} {txi : Nat} {o : Option XchgOutcome} (hsilent : ph = .tx → e.rxbuf = [])
    (hasked : ph = .rx → 0 < n) : ExchangeAt f n skip wlen { e with ph := ph, txi := txi, outcome := o } :=
  ⟨h.frame, h.count, h.skipped, h.word, h.inWord, h.fits, h.stream, hsilent, hasked⟩

/-- RXBIT leaves the transmitter, the phase and the outcome. -/
theorem sampleBit_frame (b : Bool) (e : Engine) :
    (sampleBit b e).ph = e.ph ∧ (sampleBit b e).outcome = e.outcome ∧
      (sampleBit b e).txi = e.txi ∧ (sampleBit b e).txbuf = e.txbuf := by
  unfold sampleBit latencyBit partBit
  split
  · exact ⟨rfl, rfl, rfl, rfl⟩
  · split <;> exact ⟨rfl, rfl, rfl, rfl⟩

/-- Once every requested bit is sampled, the partitioner has completed as many words as were requested after
the skip (R136, R144). -/
theorem ExchangeAt.words_length {f : Option Bits} {m skip wlen : Nat} {e : Engine}
    (h : ExchangeAt f (m * wlen + skip) skip wlen e) (hn : e.rxn = 0) : e.xq.length = m := by
  have hlen := congrArg List.length h.stream
  rw [List.length_append, flatMap_natToBits_length, List.length_drop] at hlen
  have hcount := h.count
  have hopen := h.inWord
  have htotal : e.xq.length * wlen + e.wacc.length = m * wlen := by omega
  have hpos : 0 < wlen := by omega
  calc e.xq.length = (e.xq.length * wlen + e.wacc.length) / wlen := by
        rw [Nat.mul_comm, Nat.mul_add_div hpos, Nat.div_eq_of_lt hopen, Nat.add_zero]
    _ = m := by rw [htotal, Nat.mul_div_cancel _ hpos]

/-! Steps of the engine -/

/-- `t` differs from `s` in the engine, the ports, the environment and what the model records only: the command in
progress and all that outlives it are the same. -/
structure SameCommand (s t : State) : Prop where
  cfg : t.cfg = s.cfg
  lc : t.lc = s.lc
  aw : t.aw = s.aw
  dw : t.dw = s.dw
  busy : t.busy = s.busy
  owner : t.owner = s.owner
  pending : t.pending = s.pending
  cmd : t.cmd = s.cmd

namespace SameCommand

variable {s t : State}

theorem currentPlan (k : SameCommand s t) : currentPlan t = currentPlan s := by
  simp only [Machine.currentPlan, k.cfg, k.cmd]

theorem commandOk (k : SameCommand s t) : commandOk t = commandOk s := by
  simp only [Machine.commandOk, Machine.commandOk.transferOk, k.currentPlan, k.cmd, k.lc, k.aw, k.dw]

theorem currentExchange (k : SameCommand s t) : currentExchange t = currentExchange s := by
  simp only [Machine.currentExchange, k.currentPlan, subWords, k.cmd, k.lc, k.cfg, k.dw]

theorem lifecycleOk (k : SameCommand s t) : lifecycleOk t = lifecycleOk s := by
  simp only [Machine.lifecycleOk, k.lc, k.aw, k.dw, k.cfg]

/-- An exchange stays the current one when the engine keeps what `ExchangeAt` says. -/
theorem exchangeOk (k : SameCommand s t) (h : exchangeOk s = true)
    (he : ∀ f n skip wlen, ExchangeAt f n skip wlen s.eng → ExchangeAt f n skip wlen t.eng) :
    exchangeOk t = true := by
  obtain ⟨i, n, skip, wlen, hx, ha⟩ := (exchangeOk_iff s).1 h
  refine (exchangeOk_iff t).2 ⟨i, n, skip, wlen, k.currentExchange.trans hx, ?_⟩
  rw [k.cfg, k.aw, k.dw]
  exact he _ _ _ _ ha

theorem exclusion (k : SameCommand s t) (h : Exclusion s) (hb : s.busy = true)
    (hrun : t.eng.ph ≠ .idle → t.eng.outcome = none) : Exclusion t where
  owned := by rw [k.busy, k.owner, h.owned]
  free hf := by simp [k.busy, hb] at hf
  running := hrun
  callers := k.pending ▸ h.callers
  waiting := by rw [k.pending, k.owner]; exact h.waiting

theorem ground (k : SameCommand s t) (g : Ground s) (hb : s.busy = true)
    (hpeer : peerWf s.cfg.fieldBits t.env.peer = true)
    (hrun : t.eng.ph ≠ .idle → t.eng.outcome = none) (hsent : t.eng.txi ≤ t.eng.txbuf.length) : Ground t where
  legal := k.cfg ▸ g.legal
  peer := by rw [k.cfg]; exact hpeer
  exclusion := k.exclusion g.exclusion hb hrun
  lifecycle := k.lifecycleOk.trans g.lifecycle
  sent := hsent

end SameCommand

/-- The invariant after a step of the engine on behalf of the command in progress. -/
theorem inv_engineStep {s t : State} (k : SameCommand s t) (hs : inv s = true) (hb : s.busy = true)
    (hpeer : peerWf s.cfg.fieldBits t.env.peer = true)
    (hrun : t.eng.ph ≠ .idle → t.eng.outcome = none) (hsent : t.eng.txi ≤ t.eng.txbuf.length)
    (hstage : Stage t) : inv t = true := by
  obtain ⟨g, hc⟩ := (inv_iff s).1 hs
  exact (inv_iff t).2 ⟨k.ground g hb hpeer hrun hsent, fun _ => ⟨k.commandOk.trans (hc hb).1, hstage⟩⟩

/-- In `TX` or `RX` the command is in progress and its exchange is the current one. -/
theorem inv_running {s : State} (h : inv s = true) (hp : s.eng.ph ≠ .idle) :
    s.busy = true ∧ exchangeOk s = true ∧ s.eng.outcome = none := by
  obtain ⟨g, hc⟩ := (inv_iff s).1 h
  have hb := g.exclusion.busy_of_running hp
  refine ⟨hb, ?_, g.exclusion.running hp⟩
  cases (hc hb).2 with
  | between hi | ended hi | broken hi => exact absurd hi hp
  | running _ hx => exact hx

theorem inv_txBitStep {s : State} (h : inv s = true) (hp : s.eng.ph = .tx)
    (ht : s.eng.txi < s.eng.txbuf.length) : inv (txBitStep s) = true := by
  have hne : s.eng.ph ≠ .idle := by simp [hp]
  obtain ⟨hb, hx, ho⟩ := inv_running h hne
  have k : SameCommand s (txBitStep s) := ⟨rfl, rfl, rfl, rfl, rfl, rfl, rfl, rfl⟩
  exact inv_engineStep k h hb ((inv_iff s).1 h).1.peer (fun _ => ho) ht
    (.running hne (k.exchangeOk hx fun _ _ _ _ he => he.moved he.silent he.asked))

theorem inv_rxBitStep {s : State} (h : inv s = true) (hp : s.eng.ph = .rx) (hn : 0 < s.eng.rxn) (b : Bool) :
    inv (rxBitStep b s) = true := by
  have hne : s.eng.ph ≠ .idle := by simp [hp]
  obtain ⟨hb, hx, ho⟩ := inv_running h hne
  have k : SameCommand s (rxBitStep b s) := ⟨rfl, rfl, rfl, rfl, rfl, rfl, rfl, rfl⟩
  obtain ⟨hph, hout, htxi, htxbuf⟩ := sampleBit_frame (responseBit b s.env.answer) s.eng
  have hg := ((inv_iff s).1 h).1
  refine inv_engineStep k h hb hg.peer (fun _ => hout.trans ho) ?_ (.running ?_ ?_)
  · rw [rxBitStep_eng, htxi, htxbuf]; exact hg.sent
  · rw [rxBitStep_eng, hph]; exact hne
  · exact k.exchangeOk hx fun _ _ _ _ he => he.sampleBit hp hn _

/-- An exchange that ends `Ok` hands over the bits it sampled (R134, R136). -/
theorem inv_endExchange_ok {s : State} (h : inv s = true) (hp : s.eng.ph ≠ .idle) (hn : s.eng.rxn = 0) :
    inv (endExchange (.ok s.eng.rxbuf) s) = true := by
  obtain ⟨hb, hx, -⟩ := inv_running h hp
  have k : SameCommand s (endExchange (.ok s.eng.rxbuf) s) := ⟨rfl, rfl, rfl, rfl, rfl, rfl, rfl, rfl⟩
  have hg := ((inv_iff s).1 h).1
  exact inv_engineStep k h hb hg.peer (fun hi => absurd rfl hi) hg.sent
    (.ended rfl rfl (k.exchangeOk hx fun _ _ _ _ he => he.moved nofun nofun) hn)

/-- The end of `TX` (R134). -/
theorem inv_endTx {s : State} (h : inv s = true) (hp : s.eng.ph = .tx) (ans : List (Option Bool)) :
    inv (endTx ans s) = true := by
  have hne : s.eng.ph ≠ .idle := by simp [hp]
  obtain ⟨hb, hx, ho⟩ := inv_running h hne
  have hsilent : s.eng.rxbuf = [] := by
    obtain ⟨i, n, skip, wlen, -, he⟩ := (exchangeOk_iff s).1 hx
    exact he.silent hp
  by_cases hn : 0 < s.eng.rxn
  · have hg := ((inv_iff s).1 h).1
    rw [endTx_sampling hn]
    have k : SameCommand s { s with
        eng := { s.eng with ph := .rx }, ports := { s.ports with txBit := none },
        env := { s.env with answer := ans } } := ⟨rfl, rfl, rfl, rfl, rfl, rfl, rfl, rfl⟩
    refine inv_engineStep k h hb hg.peer (fun _ => ho) hg.sent (.running (by simp) (k.exchangeOk hx ?_))
    intro f n skip wlen he
    exact he.moved nofun fun _ => he.count ▸ Nat.add_pos_right _ hn
  · have hn : s.eng.rxn = 0 := by omega
    have hend := inv_endExchange_ok h hne hn
    rw [hsilent] at hend
    rwa [endTx_done hn]

/-! The reference peer's memory -/

theorem dataWords_lt (dw m : Nat) (d : Bits) : ∀ w ∈ dataWords dw m d, w < 2 ^ dw := by
  induction m generalizing d with
  | zero => simp [dataWords]
  | succ m ih =>
    intro w hw
    rcases List.mem_cons.1 hw with rfl | hw
    · exact lt_of_lt_of_le (toUnsigned_lt _) (Nat.pow_le_pow_right (by simp) (by simp))
    · exact ih _ w hw

theorem decodeData_words_lt {dw : Nat} {d : Bits} {ws : List Nat} (h : decodeData dw d = .ok ws) :
    ∀ w ∈ ws, w < 2 ^ dw := by
  unfold decodeData at h
  split at h
  · cases h
  · split at h
    · cases h
    · cases h; exact dataWords_lt _ _ _

/-- Only the WRITE layout gives a WRITE frame (R103). -/
theorem decodeFrame_writeFrame {c : Config} {widths : Option (Nat × Nat)} {f : Bits} {a : Nat} {ws : List Nat}
    (h : decodeFrame c widths f = .ok (.writeFrame a ws)) :
    ∃ rest, decodeWrite widths rest = .ok (.writeFrame a ws) := by
  unfold decodeFrame at h
  split at h
  · rename_i rest
    unfold decodeBody at h
    split at h
    · unfold decodeSize at h; split at h <;> cases h
    split at h
    · unfold decodeRead at h
      split at h
      · cases h
      · split at h <;> cases h
    split at h
    · exact ⟨rest, h⟩
    · split at h <;> cases h
  · cases h

/-- The words of a decoded WRITE frame fit the data width it was decoded at (R94). -/
theorem decodeFrame_words_lt {c : Config} {aw dw : Nat} {f : Bits} {a : Nat} {ws : List Nat}
    (h : decodeFrame c (some (aw, dw)) f = .ok (.writeFrame a ws)) : ∀ w ∈ ws, w < 2 ^ dw := by
  obtain ⟨rest, h⟩ := decodeFrame_writeFrame h
  simp only [decodeWrite] at h
  split at h
  · cases h
  · split at h
    · cases h
    · rename_i hd; cases h; exact decodeData_words_lt hd

/-- A WRITE frame decoded at the peer's widths, or the first words of one, keeps its memory canonical. -/
theorem peerWf_peerWrite {c : Config} {fb : Nat} {p : Peer} {f : Bits} {a : Nat} {ws : List Nat}
    (hp : peerWf fb p = true)
    (hd : ∀ paw pdw m, p = .reference paw pdw m → decodeFrame c (some (paw, pdw)) f = .ok (.writeFrame a ws))
    (j : Nat) : peerWf fb (peerWrite a (ws.take j) p) = true := by
  cases p with
  | oracle => rfl
  | reference paw pdw m =>
    have hw := decodeFrame_words_lt (hd paw pdw m rfl)
    simp only [peerWf, peerWrite, Bool.and_eq_true, decide_eq_true_eq] at hp ⊢
    exact ⟨hp.1, memWrite_wf (fun w hm => hw w (List.mem_of_mem_take hm)) hp.2⟩

/-- The peer of a cut exchange is as it was, or the first words of the WRITE frame are written (R70 (c)). -/
theorem peerCut_some {c : Config} {e : Engine} {j : Nat} {p q : Peer} (h : peerCut c e j p = some q) :
    q = p ∨ ∃ paw pdw m a ws, p = .reference paw pdw m ∧
      decodeFrame c (some (paw, pdw)) e.txbuf = .ok (.writeFrame a ws) ∧ q = peerWrite a (ws.take j) p := by
  cases p with
  | oracle => cases h; exact .inl rfl
  | reference paw pdw m =>
    simp only [peerCut] at h
    split at h
    · split at h
      · rename_i a ws hd; cases h; exact .inr ⟨paw, pdw, m, a, ws, rfl, hd, rfl⟩
      · cases h; exact .inl rfl
      · cases h
    · cases h; exact .inl rfl

theorem peerWf_peerCut {c : Config} {e : Engine} {j fb : Nat} {p q : Peer} (hp : peerWf fb p = true)
    (h : peerCut c e j p = some q) : peerWf fb q = true := by
  obtain rfl | ⟨paw, pdw, m, a, ws, rfl, hd, rfl⟩ := peerCut_some h
  · exact hp
  · exact peerWf_peerWrite hp (fun _ _ _ he => by cases he; exact hd) j

/-- Another well-formed peer behind the link leaves the invariant. -/
theorem inv_withPeer {s : State} (h : inv s = true) {p : Peer} (hp : peerWf s.cfg.fieldBits p = true) :
    inv { s with env := { s.env with peer := p } } = true := by
  simp only [inv, Bool.and_eq_true] at h ⊢
  obtain ⟨⟨⟨⟨hc, -⟩, hx⟩, hl⟩, he⟩ := h
  exact ⟨⟨⟨⟨hc, hp⟩, hx⟩, hl⟩, he⟩

theorem inv_receiveFrame {s t : State} (h : inv s = true) (hr : receiveFrame s = .next t) : inv t = true := by
  obtain ⟨hs, ans, p, hp, rfl⟩ := receiveFrame_endTx hr
  have hwf : peerWf s.cfg.fieldBits p = true := by
    have hold := ((inv_iff s).1 h).1.peer
    obtain rfl | ⟨a, ws, hd, rfl⟩ := hp
    · exact hold
    · rw [← List.take_length (l := ws)]
      refine peerWf_peerWrite (c := s.cfg) (f := s.eng.txbuf) hold (fun paw pdw m hp => ?_) _
      rwa [show frameWidths s = some (paw, pdw) by simp [frameWidths, hp]] at hd
  exact inv_endTx (inv_withPeer h hwf) ((frameSent_iff s).1 hs).1 ans

/-- A failed or aborted exchange leaves its outcome to the command (R138, R139). -/
theorem inv_breakExchange {o : XchgOutcome} {j : Nat} {s t : State} (h : inv s = true) (ho : ∀ r, o ≠ .ok r)
    (hr : breakExchange o j s = .next t) : inv t = true := by
  obtain ⟨-, rfl⟩ | ⟨hp, p, hcut, rfl⟩ := breakExchange_next hr
  · exact h
  · exact inv_engineStep (s := s) ⟨rfl, rfl, rfl, rfl, rfl, rfl, rfl, rfl⟩ h (inv_running h hp).1
      (peerWf_peerCut ((inv_iff s).1 h).1.peer hcut) (fun hi => absurd rfl hi) (Nat.le_refl 0)
      (.broken rfl o rfl ho)

end Sys2Proof.Proofs
end

section
/-! The steps of a command: grant, start of an exchange, end of a sub-transfer, return; then the step function and
the obligations about the invariant. -/

namespace Sys2Proof.Proofs

open Machine Laws

/-! A return, a grant, the latch -/

/-- A return leaves a state that meets the invariant (R262, R272). -/
theorem inv_release {s : State} (g : Ground s) (st : Status) (d : RetData) : inv (release st d s) = true :=
  inv_of_free ⟨g.legal, g.peer, ⟨rfl, fun _ => ⟨rfl, rfl⟩, fun h => absurd rfl h, g.exclusion.callers, nofun⟩,
    g.lifecycle, g.sent⟩ rfl

theorem inv_raiseFailure {s : State} (g : Ground s) (k : Status) : inv (raiseFailure k s) = true :=
  inv_release g k .nothing

/-- Another lifecycle with the widths it asks for; the command registers are no part of what `Ground` says. -/
theorem Ground.withLifecycle {s : State} (g : Ground s) {lc : Lifecycle} {aw dw : Option Nat} (r : CommandRegs)
    (hl : lifecycleOk { s with lc := lc, aw := aw, dw := dw } = true) :
    Ground { s with lc := lc, aw := aw, dw := dw, cmd := r } :=
  ⟨g.legal, g.peer, ⟨g.exclusion.owned, g.exclusion.free, g.exclusion.running, g.exclusion.callers,
    g.exclusion.waiting⟩, hl, g.sent⟩

theorem Ground.withCmd {s : State} (g : Ground s) (r : CommandRegs) : Ground { s with cmd := r } :=
  g.withLifecycle r g.lifecycle

theorem latch_eq_withCmd (c : Command) (s : State) : latch c s = { s with cmd := (latch c s).cmd } := by
  cases c <;> rfl

theorem ground_latch {s : State} (g : Ground s) (c : Command) : Ground (latch c s) := by
  rw [latch_eq_withCmd]; exact g.withCmd _

/-- GRANT hands the exclusion to a caller that then no longer waits (R270). -/
theorem ground_grant {s : State} (g : Ground s) {i : Nat} {c : Caller} {cmd : Command}
    (hi : s.pending[i]? = some (c, cmd)) : Ground (grant i c s) := by
  obtain ⟨hlt, hget⟩ := List.getElem?_eq_some_iff.1 hi
  have hperm := (List.getElem_cons_eraseIdx_perm hlt).map Prod.fst
  have hnodup := hperm.nodup_iff.2 g.exclusion.callers
  rw [List.map_cons, hget, List.nodup_cons] at hnodup
  obtain ⟨hc, hrest⟩ := hnodup
  refine ⟨g.legal, g.peer, ⟨rfl, nofun, g.exclusion.running, hrest, fun p hp howner => hc ?_⟩, g.lifecycle,
    g.sent⟩
  exact List.mem_map.2 ⟨p, hp, (Option.some.inj howner).symm⟩

/-! The start of an exchange -/

/-- A started exchange is the one the command registers describe (R132, R140). -/
theorem inv_loadExchange {s : State} {i : Instr} {n skip wlen : Nat} {p : Bits} (g : Ground s)
    (hg : granted s = true) (hc : commandOk s = true) (hx : currentExchange s = some (i, n, skip, wlen))
    (hf : encode s.cfg (s.aw.getD 0) (s.dw.getD 0) i = some p) (hw : 0 < wlen) :
    inv (loadExchange p n skip (some wlen) s) = true := by
  have hb := ((granted_iff s).1 hg).1
  have k : SameCommand s (loadExchange p n skip (some wlen) s) := ⟨rfl, rfl, rfl, rfl, rfl, rfl, rfl, rfl⟩
  have hload : ExchangeAt (encode s.cfg (s.aw.getD 0) (s.dw.getD 0) i) n skip wlen
      (loadExchange p n skip (some wlen) s).eng := hf ▸ exchangeAt_loaded p n skip hw
  exact (inv_iff _).2 ⟨k.ground g hb g.peer (fun _ => rfl) (Nat.zero_le _), fun _ => ⟨k.commandOk.trans hc,
    .running (by simp) ((exchangeOk_iff _).2 ⟨i, n, skip, wlen, k.currentExchange.trans hx, hload⟩)⟩⟩

/-- A legal configuration has a width field of at least one bit (R8). -/
theorem fieldBits_pos {c : Config} (h : c.legal = true) : 0 < c.fieldBits := by
  simp only [Config.legal, Bool.and_eq_true, decide_eq_true_eq] at h
  obtain ⟨⟨-, h3⟩, -⟩ := h
  simp only [Config.fieldBits]
  omega

theorem inv_startSize {s t : State} (g : Ground s) (hc : commandOk s = true) (hop : s.cmd.op = some .initCmd)
    (h : startSize s = .next t) : inv t = true := by
  obtain ⟨hg, rfl⟩ := startSize_next h
  exact inv_loadExchange g hg hc (currentExchange_init hop ((commandOk_init hop).1 hc)) (encode_size _ _ _)
    (fieldBits_pos g.legal)

section Start

variable {s t : State} {p : List (Nat × Nat)} {n aw dw : Nat} {q : Nat × Nat}

theorem inv_startRead (g : Ground s) (hc : commandOk s = true) (hop : s.cmd.op = some .readCmd)
    (hp : currentPlan s = some p) (ha : s.aw = some aw) (hd : s.dw = some dw) (hq : p[s.cmd.ki]? = some q)
    (h : startRead aw dw q s = .next t) : inv t = true := by
  obtain ⟨hg, f, hf, rfl⟩ := startRead_next h
  exact inv_loadExchange g hg hc (currentExchange_read hop hp hd hq) (by simpa [ha, hd] using hf)
    (dw_pos g.lifecycle hd)

theorem inv_startWrite (g : Ground s) (hc : commandOk s = true) (hop : s.cmd.op = some .writeCmd)
    (hp : currentPlan s = some p) (ha : s.aw = some aw) (hd : s.dw = some dw) (hq : p[s.cmd.ki]? = some q)
    (h : startWrite aw dw q s = .next t) : inv t = true := by
  obtain ⟨hg, f, hf, rfl⟩ := startWrite_next h
  exact inv_loadExchange g hg hc (currentExchange_write hop hp hd hq) (by simpa [ha, hd] using hf)
    (dw_pos g.lifecycle hd)

end Start

/-! A granted command -/

/-- A valid vector or natural fits the data width (R203, D10). -/
theorem wordValue_lt {dw : Nat} {w : WriteWord} (h : wordFits dw w = true) : wordValue w < 2 ^ dw := by
  cases w with
  | uint n => simpa [wordFits, wordValue] using h
  | vec v =>
    have hl : v.length = dw := by simpa [wordFits] using h
    exact hl ▸ toUnsigned_lt v

theorem inv_execInit {s t : State} (g : Ground s) (h : execInit s = .next t) : inv t = true := by
  obtain ⟨-, hl, hs⟩ := execInit_next h
  exact inv_startSize (s := latch .initCmd s) (ground_latch g _) ((commandOk_init rfl).2 hl) rfl hs

theorem inv_execSizeq {s t : State} (g : Ground s) (h : execSizeq s = .next t) : inv t = true := by
  obtain ⟨-, ⟨-, rfl⟩ | ⟨-, aw, dw, -, -, rfl⟩⟩ := execSizeq_next h
  · exact inv_raiseFailure (ground_latch g _) _
  · exact inv_release (ground_latch g _) _ _

/-- A valid READ stands at sub-transfer 0 with nothing done (R181 step 4). -/
theorem transferAt_read {s : State} {a n aw dw : Nat} (hr : isReady s = true) (ha : s.aw = some aw)
    (hd : s.dw = some dw)
    (hv : (readInRange aw a n && startsEncodable aw (plan s.cfg.chunkWords a n)) = true)
    (hne : plan s.cfg.chunkWords a n ≠ []) :
    TransferAt (beginTransfer (latch (.readCmd a n) s)) (plan s.cfg.chunkWords a n) n aw dw := by
  simp only [readInRange, Bool.and_eq_true, decide_eq_true_eq] at hv
  obtain ⟨⟨-, hn⟩, hstarts⟩ := hv
  exact ⟨rfl, rfl, ha, hd, by simpa [isReady] using hr, hn, hstarts, List.length_pos_iff.2 hne, rfl, nofun,
    nofun⟩

theorem inv_execRead {a n : Nat} {s t : State} (g : Ground s) (h : execRead a n s = .next t) :
    inv t = true := by
  obtain ⟨-, ⟨-, rfl⟩ | ⟨hr, aw, dw, ha, hd, ⟨-, rfl⟩ | ⟨hv, q, rest, hq, hs⟩⟩⟩ := execRead_next h
  · exact inv_raiseFailure (ground_latch g _) _
  · exact inv_raiseFailure (ground_latch g _) _
  · have hat := transferAt_read hr ha hd hv (by simp [hq])
    exact inv_startRead ((ground_latch g _).withCmd _) ((commandOk_read rfl).2 ⟨⟨_, _, _, _, hat⟩, rfl⟩) rfl
      hat.plan ha hd (by simp [hq]) hs

/-- A valid WRITE stands at sub-transfer 0 with all its words latched (R201 step 4). -/
theorem transferAt_write {s : State} {a aw dw : Nat} {ws : List WriteWord} (hr : isReady s = true)
    (ha : s.aw = some aw) (hd : s.dw = some dw)
    (hv : (writeInRange aw dw a ws && startsEncodable aw (plan s.cfg.chunkWords a ws.length)) = true)
    (hne : plan s.cfg.chunkWords a ws.length ≠ []) :
    TransferAt (beginTransfer (latch (.writeCmd a ws) s)) (plan s.cfg.chunkWords a ws.length) ws.length aw dw := by
  simp only [writeInRange, Bool.and_eq_true, decide_eq_true_eq, List.all_eq_true] at hv
  obtain ⟨⟨⟨-, hn⟩, hfits⟩, hstarts⟩ := hv
  refine ⟨rfl, rfl, ha, hd, by simpa [isReady] using hr, hn, hstarts, List.length_pos_iff.2 hne, rfl, nofun, ?_⟩
  intro w hw
  obtain ⟨x, hx, rfl⟩ := List.mem_map.1 hw
  exact wordValue_lt (hfits x hx)

theorem inv_execWrite {a : Nat} {ws : List WriteWord} {s t : State} (g : Ground s)
    (h : execWrite a ws s = .next t) : inv t = true := by
  obtain ⟨-, ⟨-, rfl⟩ | ⟨hr, aw, dw, ha, hd, ⟨-, rfl⟩ | ⟨hv, q, rest, hq, hs⟩⟩⟩ := execWrite_next h
  · exact inv_raiseFailure (ground_latch g _) _
  · exact inv_raiseFailure (ground_latch g _) _
  · have hat := transferAt_write hr ha hd hv (by simp [hq])
    exact inv_startWrite ((ground_latch g _).withCmd _)
      ((commandOk_write rfl).2 ⟨⟨_, _, _, _, hat⟩, congrArg some (List.length_map ..)⟩) rfl
      hat.plan ha hd (by simp [hq]) hs

theorem inv_exec_command {c : Command} {s t : State} (g : Ground s) (h : exec c.toInstr s = .next t) :
    inv t = true := by
  cases c with
  | initCmd => exact inv_execInit g h
  | sizeqCmd => exact inv_execSizeq g h
  | readCmd a n => exact inv_execRead g h
  | writeCmd a ws => exact inv_execWrite g h

/-! The end of an exchange -/

/-- INITIALIZE with the widths it decoded, or with none (R166, R167). -/
theorem inv_finishInit {s : State} (g : Ground s) (hl : s.lc = .uninitialized)
    (hfit : ∀ w ∈ s.eng.xq, w < 2 ^ s.cfg.fieldBits) : inv (finishInit s) = true := by
  have hnone := (lifecycleOk_not_ready (by simp [hl])).1 g.lifecycle
  obtain ⟨aw, dw, -, -, h⟩ | ⟨aw, dw, hxq, ha, hd, h⟩ | ⟨-, h⟩ := finishInit_cases s
  · rw [h]
    exact inv_raiseFailure (g.withLifecycle (lc := .dead) _ ((lifecycleOk_not_ready (by simp)).2 hnone)) _
  · rw [h]
    refine inv_release (g.withLifecycle _ ((lifecycleOk_ready rfl).2 ⟨aw, dw, rfl, rfl, ?_⟩)) _ _
    exact ⟨Nat.pos_of_ne_zero ha, Nat.pos_of_ne_zero hd, hfit aw (by simp [hxq]), hfit dw (by simp [hxq])⟩
  · rw [h]; exact inv_raiseFailure g _

/-- The state in which sub-transfer `KI + 1` is next, after one of `n` words that brought `words` (R181, R201
step 5e). -/
def nextSub (n : Nat) (words : List Nat) (s : State) : State :=
  { s with
    cmd := { s.cmd with rq := s.cmd.rq ++ words, doneWords := s.cmd.doneWords + n, ki := s.cmd.ki + 1 }
    eng := { s.eng with outcome := none } }

theorem finishSub_cases (k n : Nat) (words : List Nat) (r : Bool) (s : State) :
    (s.cmd.ki + 1 < k ∧ finishSub k n words r s = nextSub n words s) ∨
      ∃ d, finishSub k n words r s = release .ok d
        { s with cmd := { s.cmd with rq := s.cmd.rq ++ words, doneWords := s.cmd.doneWords + n } } := by
  simp only [finishSub]
  split
  · rename_i h; exact .inl ⟨h, rfl⟩
  · exact .inr ⟨_, rfl⟩

/-- The next sub-transfer of the plan, the finished one counted (R233). -/
theorem TransferAt.next {s : State} {p : List (Nat × Nat)} {n aw dw : Nat} (h : TransferAt s p n aw dw)
    {q : Nat × Nat} (hq : p[s.cmd.ki]? = some q) (hk : s.cmd.ki + 1 < p.length) {words : List Nat}
    (hw : ∀ w ∈ words, w < 2 ^ dw) : TransferAt (nextSub q.2 words s) p n aw dw := by
  refine ⟨h.plan, h.count, h.addressWidth, h.dataWidth, h.ready, h.words, h.starts, hk, ?_, ?_, h.wq⟩
  · have htake : p.take (s.cmd.ki + 1) = p.take s.cmd.ki ++ [q] := by
      rw [List.take_add_one, hq]; rfl
    show s.cmd.doneWords + q.2 = ((p.take (s.cmd.ki + 1)).map (·.2)).sum
    rw [htake, h.done]
    simp
  · intro w hm
    rcases List.mem_append.1 hm with hm | hm
    · exact h.rq w hm
    · exact hw w hm

/-- A sub-transfer ends with the command at the next one or returned. -/
theorem inv_finishSub {s : State} {k n : Nat} {words : List Nat} {r : Bool} (g : Ground s)
    (hi : s.eng.ph = .idle) (hop : s.cmd.op ≠ some .initCmd)
    (hnext : s.cmd.ki + 1 < k → commandOk (nextSub n words s) = true) :
    inv (finishSub k n words r s) = true := by
  obtain ⟨hk, h⟩ | ⟨d, h⟩ := finishSub_cases k n words r s
  · rw [h]
    refine (inv_iff _).2 ⟨⟨g.legal, g.peer, ⟨g.exclusion.owned, ?_, fun _ => rfl, g.exclusion.callers,
      g.exclusion.waiting⟩, g.lifecycle, g.sent⟩, fun _ => ⟨hnext hk, .between hi rfl hop (by simp [nextSub])⟩⟩
    exact fun hf => ⟨hi, rfl⟩
  · rw [h]; exact inv_release (g.withCmd _) _ _

section Finish

variable {s t : State}

theorem inv_finishRead (g : Ground s) (hi : s.eng.ph = .idle)
    (hop : s.cmd.op = some .readCmd) (hc : commandOk s = true) (hx : exchangeOk s = true) (hn : s.eng.rxn = 0)
    (h : finishTransfer true s = .next t) : inv t = true := by
  obtain ⟨p, q, hp, hq, rfl⟩ := finishTransfer_next h
  obtain ⟨⟨p', n, aw, dw, hat⟩, hrq⟩ := (commandOk_read hop).1 hc
  obtain rfl : p = p' := Option.some.inj (hp.symm.trans hat.plan)
  obtain ⟨i, bits, skip, wlen, hcur, he⟩ := (exchangeOk_iff s).1 hx
  rw [currentExchange_read hop hp hat.dataWidth hq] at hcur
  cases hcur
  have hlen : s.eng.xq.length = q.2 := ExchangeAt.words_length (by rw [← Nat.succ_mul]; exact he) hn
  refine inv_finishSub g hi (by simp [hop]) fun hk =>
    (commandOk_read (s := nextSub _ _ s) hop).2 ⟨⟨p, n, aw, dw, ?_⟩, ?_⟩
  · exact hat.next hq hk he.fits
  · show (s.cmd.rq ++ s.eng.xq).length = s.cmd.doneWords + q.2
    rw [List.length_append, hrq, hlen]

theorem inv_finishWrite (g : Ground s) (hi : s.eng.ph = .idle)
    (hop : s.cmd.op = some .writeCmd) (hc : commandOk s = true)
    (h : finishTransfer false s = .next t) : inv t = true := by
  obtain ⟨p, q, hp, hq, rfl⟩ := finishTransfer_next h
  obtain ⟨⟨p', n, aw, dw, hat⟩, hwq⟩ := (commandOk_write hop).1 hc
  obtain rfl : p = p' := Option.some.inj (hp.symm.trans hat.plan)
  refine inv_finishSub g hi (by simp [hop]) fun hk =>
    (commandOk_write (s := nextSub _ _ s) hop).2 ⟨⟨p, n, aw, dw, ?_⟩, hwq⟩
  exact hat.next hq hk nofun

/-- The command acts on the outcome of its exchange. -/
theorem inv_collect (h : inv s = true) (hb : s.busy = true) {o : XchgOutcome} (ho : s.eng.outcome = some o)
    (hr : collect o s = .next t) : inv t = true := by
  obtain ⟨g, hcs⟩ := (inv_iff s).1 h
  obtain ⟨hc, hstage⟩ := hcs hb
  obtain ⟨-, rfl⟩ | ⟨-, rfl⟩ | hok := collect_next hr
  · exact inv_raiseFailure g _
  · exact inv_raiseFailure g _
  cases hstage with
  | between _ hnone => simp [ho] at hnone
  | running hp =>
    have hnone := g.exclusion.running hp
    simp [ho] at hnone
  | broken _ o' ho' hf =>
    obtain rfl : o = o' := Option.some.inj (ho.symm.trans ho')
    obtain ⟨r, hr, -⟩ | ⟨r, hr, -⟩ | ⟨r, hr, -⟩ := hok
    all_goals exact absurd hr (hf r)
  | ended hi _ hx hn =>
    obtain ⟨r, -, hop, rfl⟩ | ⟨r, -, hop, ht⟩ | ⟨r, -, hop, ht⟩ := hok
    · have hl := (commandOk_init hop).1 hc
      obtain ⟨i, n, skip, wlen, hcur, he⟩ := (exchangeOk_iff s).1 hx
      rw [currentExchange_init hop hl] at hcur
      cases hcur
      exact inv_finishInit g hl he.fits
    · exact inv_finishRead g hi hop hc hx hn ht
    · exact inv_finishWrite g hi hop hc ht

end Finish

/-- The between-chunks point: the command is cancelled or starts the current sub-transfer (R240, R243). -/
theorem inv_betweenChunks {b : Bool} {s t : State} (h : inv s = true) (hb : s.busy = true)
    (hr : betweenChunks b s = .next t) : inv t = true := by
  obtain ⟨g, hcs⟩ := (inv_iff s).1 h
  have k : SameCommand s (emitProgress s) := ⟨rfl, rfl, rfl, rfl, rfl, rfl, rfl, rfl⟩
  have gp : Ground (emitProgress s) := k.ground g hb g.peer g.exclusion.running g.sent
  have hc : commandOk (emitProgress s) = true := k.commandOk.trans (hcs hb).1
  obtain ⟨-, rfl⟩ | ⟨-, hs⟩ := betweenChunks_next hr
  · exact inv_raiseFailure gp _
  · obtain ⟨p, aw, dw, q, hp, ha, hd, hq, ⟨hop, ht⟩ | ⟨hop, ht⟩⟩ := startCurrent_next hs
    · exact inv_startRead gp hc hop hp ha hd hq ht
    · exact inv_startWrite gp hc hop hp ha hd hq ht

/-! Every move -/

theorem inv_idleStep {x : Inputs} {s t : State} (h : inv s = true) (hr : idleStep x s = .next t) :
    inv t = true := by
  obtain ⟨hb, o, ho, hc⟩ | ⟨hb, -, hc⟩ | ⟨-, i, c, cmd, hp, he⟩ | ⟨-, -, rfl⟩ := idleStep_next hr
  · exact inv_collect h hb ho hc
  · exact inv_betweenChunks h hb hc
  · exact inv_exec_command (ground_grant ((inv_iff s).1 h).1 (pickPending_some hp).2) he
  · exact h

theorem inv_blockStep {x : Inputs} {s t : State} (h : inv s = true) (hr : blockStep x s = .next t) :
    inv t = true := by
  obtain ⟨hp, ht, rfl⟩ | ⟨-, -, hr⟩ | ⟨hp, hn, rfl⟩ | ⟨hp, hn, rfl⟩ | ⟨-, hi⟩ := blockStep_next hr
  · exact inv_txBitStep h hp ht
  · exact inv_receiveFrame h hr
  · exact inv_rxBitStep h hp hn _
  · exact inv_endExchange_ok h (by simp [hp]) hn
  · exact inv_idleStep h hi

/-- A call joins the waiting ones; its caller has no other command outstanding (R38, R274). -/
theorem inv_present {c : Caller} {cmd : Command} {s t : State} (h : inv s = true)
    (hr : present c cmd s = .next t) : inv t = true := by
  obtain ⟨hw, rfl⟩ := present_next hr
  simp only [callerWaits, Bool.or_eq_false_iff, beq_eq_false_iff_ne, List.any_eq_false, beq_iff_eq] at hw
  obtain ⟨howner, hnew⟩ := hw
  simp only [inv, Bool.and_eq_true, exclusionOk_iff] at h ⊢
  obtain ⟨⟨⟨⟨hlegal, hpeer⟩, hx⟩, hl⟩, he⟩ := h
  refine ⟨⟨⟨⟨hlegal, hpeer⟩, ⟨hx.owned, hx.free, hx.running, ?_, ?_⟩⟩, hl⟩, he⟩
  · rw [record_pending, List.map_append, List.map_singleton, List.nodup_append_comm, List.singleton_append,
      List.nodup_cons]
    refine ⟨fun hc => ?_, hx.callers⟩
    obtain ⟨p, hp, hpc⟩ := List.mem_map.1 hc
    exact hnew p hp hpc
  · intro p hp
    rcases List.mem_append.1 hp with hp | hp
    · exact hx.waiting p hp
    · rw [List.mem_singleton.1 hp]; exact howner

/-- A newly constructed framer meets the invariant on a well-formed peer (R42, R290). -/
theorem inv_constructed {c : Config} {e : Environment} (hc : c.legal = true)
    (hp : peerWf c.fieldBits e.peer = true) (l : List Event) : inv (State.constructed c e l) = true :=
  inv_of_free ⟨hc, hp, ⟨rfl, fun _ => ⟨rfl, rfl⟩, fun _ => rfl, List.nodup_nil, nofun⟩, rfl, Nat.le_refl 0⟩ rfl

theorem inv_stepMove {m : Move} {s t : State} (h : inv s = true) (hr : stepMove m s = .next t) :
    inv t = true := by
  cases m with
  | tick x => exact inv_blockStep h hr
  | call c cmd => exact inv_present h hr
  | linkFail j => exact inv_breakExchange h (by simp) hr
  | linkAbort j => exact inv_breakExchange h (by simp) hr
  | reset =>
    obtain ⟨-, -, rfl⟩ := resetBlock_next hr
    have g := ((inv_iff s).1 h).1
    exact inv_constructed g.legal g.peer s.history
  | silence => cases hr; exact h
  | evaluate p => obtain ⟨v, rfl⟩ := exec_primitive_next hr; exact h

/-- The invariant does not read the moves to come. -/
theorem inv_takeMove {s : State} (h : inv s = true) : inv (takeMove s).2 = true := by
  obtain ⟨script, draws, hu⟩ := takeMove_frame s
  rw [hu]; exact h

/-- Settles O53: every move keeps the invariant. -/
theorem everyStepKeepsTheInvariant : Obligations.EveryStepKeepsTheInvariant :=
  fun _ _ h hstep => inv_stepMove (inv_takeMove h) hstep

/-- Settles O52: the reset state is newly constructed, with a legal configuration, the oracle peer and no event. -/
theorem theInvariantHoldsAtReset : Obligations.TheInvariantHoldsAtReset :=
  ⟨inv_constructed (by decide) peerWf_reset [], rfl⟩

/-! Lifecycle and widths -/

/-- How INITIALIZE ends where there are no widths yet (R166, R167). -/
theorem finishInit_lifecycle {s : State} (ha : s.aw = none) (hd : s.dw = none) :
    ((finishInit s).lc = s.lc ∧ (finishInit s).aw = s.aw ∧ (finishInit s).dw = s.dw) ∨
    ∃ aw dw, s.eng.xq = [aw, dw] ∧
      ((1 ≤ aw ∧ 1 ≤ dw ∧ (finishInit s).lc = .ready ∧ (finishInit s).aw = some aw ∧
          (finishInit s).dw = some dw ∧ (finishInit s).status = some .ok ∧
          (finishInit s).ports.ret = some (s.owner, .ok, .nothing)) ∨
        ((aw = 0 ∨ dw = 0) ∧ (finishInit s).lc = .dead ∧ (finishInit s).aw = none ∧ (finishInit s).dw = none ∧
          (finishInit s).status = some .configurationError ∧
          (finishInit s).ports.ret = some (s.owner, .configurationError, .nothing))) := by
  obtain ⟨aw, dw, hxq, h0, h⟩ | ⟨aw, dw, hxq, ha0, hd0, h⟩ | ⟨-, h⟩ := finishInit_cases s
  · rw [h]; exact .inr ⟨aw, dw, hxq, .inr ⟨h0, rfl, ha, hd, rfl, rfl⟩⟩
  · rw [h]
    exact .inr ⟨aw, dw, hxq, .inl ⟨Nat.pos_of_ne_zero ha0, Nat.pos_of_ne_zero hd0, rfl, rfl, rfl, rfl, rfl⟩⟩
  · rw [h]; exact .inl ⟨rfl, rfl, rfl⟩

/-- The moves that change the lifecycle: reset and the tick at which INITIALIZE ends. -/
theorem stepMove_lifecycle {m : Move} {s t : State} (hinv : inv s = true) (hstep : stepMove m s = .next t) :
    (t.lc = s.lc ∧ t.aw = s.aw ∧ t.dw = s.dw) ∨
    (m = .reset ∧ t.lc = .uninitialized ∧ t.aw = none ∧ t.dw = none) ∨
    (s.lc = .uninitialized ∧ s.busy = true ∧ s.cmd.op = some .initCmd ∧ s.aw = none ∧ s.dw = none ∧
      t = finishInit s) := by
  cases stepMove_effect hstep with
  | continues h => exact .inl ⟨h.lc, h.aw, h.dw⟩
  | grants i c hfree h => exact .inl ⟨h.lc, h.aw, h.dw⟩
  | presents c cmd ht => subst ht; exact .inl ⟨rfl, rfl, rfl⟩
  | resets hm hfree ht => subst ht; exact .inr (.inl ⟨hm, rfl, rfl, rfl⟩)
  | initializes hb hop ht =>
    obtain ⟨g, hc⟩ := (inv_iff s).1 hinv
    have hl := (commandOk_init hop).1 (hc hb).1
    obtain ⟨ha, hd⟩ := (lifecycleOk_not_ready (by simp [hl])).1 g.lifecycle
    exact .inr (.inr ⟨hl, hb, hop, ha, hd, ht⟩)

/-- Settles O55: of the five effects of a move, only the end of INITIALIZE and reset touch `LC`, `AW` or `DW`. -/
theorem onlyInitializeAndResetChangeTheLifecycle : Obligations.OnlyInitializeAndResetChangeTheLifecycle := by
  refine ⟨rfl, fun s t hinv hstep hchange => ?_⟩
  obtain ⟨script, draws, hu⟩ := takeMove_frame s
  have unchanged (h : t.lc = s.lc ∧ t.aw = s.aw ∧ t.dw = s.dw) : False := by simp [h] at hchange
  have hinv' := inv_takeMove hinv
  rw [step_eq, hu] at hstep
  rw [hu] at hinv'
  obtain hsame | hreset | ⟨hl, hb, hop, ha, hd, rfl⟩ := stepMove_lifecycle hinv' hstep
  · exact (unchanged hsame).elim
  · exact .inl hreset
  · obtain hsame | hchanged := finishInit_lifecycle ha hd
    · exact (unchanged hsame).elim
    · exact .inr ⟨hl, hb, hop, hchanged⟩

end Sys2Proof.Proofs
end

section
/-! The reference peer's memory under writes (spec/20_memory.md R68 to R70): a write is a sequence of stores, each
read back at its own cell and seen at no other; a cut WRITE frame is a write of its first words. -/

namespace Sys2Proof.Proofs

open Machine Laws

@[simp] theorem memCell_store_same (pdw : Nat) (m : Memory) (a w : Nat) : memCell pdw (memStore m a w) a = w := by
  simp [memCell]

theorem memCell_store_other (pdw : Nat) (m : Memory) {a b : Nat} (h : b ≠ a) (w : Nat) :
    memCell pdw (memStore m a w) b = memCell pdw m b := by
  simp [memCell, memLookup_store_other m h]

/-- A write changes no cell but those of its words (R69). -/
theorem memCell_memWrite_other (paw pdw : Nat) {b : Nat} (m : Memory) (a : Nat) (ws : List Nat)
    (h : ∀ i < ws.length, b ≠ (a + i) % 2 ^ paw) : memCell pdw (memWrite paw m a ws) b = memCell pdw m b := by
  induction ws generalizing m a with
  | nil => rfl
  | cons w ws ih =>
    have hfirst : b ≠ a % 2 ^ paw := h 0 (Nat.zero_lt_succ _)
    have hrest : ∀ i < ws.length, b ≠ (a + 1 + i) % 2 ^ paw := fun i hi => by
      rw [Nat.add_right_comm]; exact h (i + 1) (Nat.succ_lt_succ hi)
    rw [memWrite, ih _ _ hrest, memCell_store_other pdw m hfirst]

/-- Addresses less than one turn apart name different cells. -/
theorem cell_ne_of_lt {a i N : Nat} (h0 : 0 < i) (hi : i < N) : a % N ≠ (a + i) % N :=
  fun h => Nat.not_dvd_of_pos_of_lt h0 hi (Nat.left_modEq_add_iff.1 h)

theorem memRead_memWrite_same (paw pdw : Nat) (m : Memory) (a : Nat) (ws : List Nat) (h : ws.length ≤ 2 ^ paw) :
    memRead paw pdw (memWrite paw m a ws) a ws.length = ws := by
  induction ws generalizing m a with
  | nil => rfl
  | cons w ws ih =>
    have hfirst : memCell pdw (memWrite paw m a (w :: ws)) (a % 2 ^ paw) = w := by
      rw [memWrite, memCell_memWrite_other, memCell_store_same]
      intro i hi
      rw [Nat.add_assoc]
      exact cell_ne_of_lt (by omega) (by simp only [List.length_cons] at h; omega)
    have hrest := ih (memStore m (a % 2 ^ paw) w) (a + 1) (Nat.le_of_succ_le h)
    rw [List.length_cons, memRead, hfirst]
    exact congrArg (w :: ·) hrest

/-- Settles O23: induction over the words, a store at a time. -/
theorem aWriteIsReadBackAndLeavesOtherCellsAlone : Obligations.AWriteIsReadBackAndLeavesOtherCellsAlone :=
  fun paw pdw a m ws =>
    ⟨memRead_memWrite_same paw pdw m a ws, fun _ h => memCell_memWrite_other paw pdw m a ws h⟩

/-! A cut exchange (R70 (c), R138, R139) -/

section Cut

variable {c : Config} {e : Engine} {paw pdw : Nat}

theorem peerCut_writeFrame {a : Nat} {ws : List Nat} (hp : e.ph = .tx)
    (hd : decodeFrame c (some (paw, pdw)) e.txbuf = .ok (.writeFrame a ws)) (j : Nat) (m : Memory) :
    peerCut c e j (.reference paw pdw m) = some (.reference paw pdw (memWrite paw m a (ws.take j))) := by
  simp [peerCut, hp, hd]

theorem peerCut_otherFrame {i : Instr} (hp : e.ph = .tx) (hd : decodeFrame c (some (paw, pdw)) e.txbuf = .ok i)
    (hi : ∀ a ws, i ≠ .writeFrame a ws) (j : Nat) (m : Memory) :
    peerCut c e j (.reference paw pdw m) = some (.reference paw pdw m) := by
  simp only [peerCut, hp, if_true, hd]

theorem peerCut_rx (hp : e.ph = .rx) (j : Nat) (m : Memory) :
    peerCut c e j (.reference paw pdw m) = some (.reference paw pdw m) := by
  simp [peerCut, hp]

end Cut

/-- A link failure or an abort during an exchange leaves the peer as `peerCut` says (R138, R139). -/
theorem step_linkEvent_peer {s : State} {j : Nat} {e : Move} (he : e ∈ [Move.linkFail j, Move.linkAbort j])
    (hp : s.eng.ph ≠ .idle) {p q : Peer} (hq : s.env.peer = q) (hc : peerCut s.cfg s.eng j q = some p)
    (rest : List Move) :
    ∃ t, step (withScript s (e :: rest)) = .next t ∧ t.env.peer = p := by
  have hbreak (o : XchgOutcome) : ∃ t, breakExchange o j (withScript s rest) = .next t ∧ t.env.peer = p := by
    simp only [breakExchange, withScript_eng, withScript_cfg, withScript_env, hp, if_false, hq, hc]
    exact ⟨_, rfl, rfl⟩
  rcases List.mem_cons.1 he with rfl | he
  · exact hbreak .transportError
  · rw [List.mem_singleton.1 he]; exact hbreak .cancelled

/-- Settles O22: the peer after the event is `peerCut`'s, by the frame in `TX` or the phase. -/
theorem aCutWriteAppliesAPrefix : Obligations.ACutWriteAppliesAPrefix := by
  intro s j paw pdw m rest hpeer e he
  refine ⟨fun i hp hd => ?_, fun hp => ?_⟩
  · have hne : s.eng.ph ≠ .idle := by simp [hp]
    by_cases hi : ∃ a ws, i = .writeFrame a ws
    · obtain ⟨a, ws, rfl⟩ := hi
      obtain ⟨t, ht, htp⟩ := step_linkEvent_peer he hne hpeer (peerCut_writeFrame hp hd j m) rest
      refine ⟨t, ht, ?_, fun hi => absurd rfl (hi a ws)⟩
      rintro _ _ ⟨⟩
      exact htp
    · have hi : ∀ a ws, i ≠ .writeFrame a ws := fun a ws h => hi ⟨a, ws, h⟩
      obtain ⟨t, ht, htp⟩ := step_linkEvent_peer he hne hpeer (peerCut_otherFrame hp hd hi j m) rest
      exact ⟨t, ht, fun a ws h => absurd h (hi a ws), fun _ => htp⟩
  · exact step_linkEvent_peer he (by simp [hp]) hpeer (peerCut_rx hp j m) rest

end Sys2Proof.Proofs
end

section
/-! The frames the block emits, read at the peer (spec/30_encoding.md R91 to R94, R103): in a legal configuration
the decoder gives back the instruction that was encoded. And the first exchange of a granted command that passes
its checks (spec/42_size_initialize.md R161, spec/43_read.md R181, spec/44_write.md R201). -/

namespace Sys2Proof.Proofs

open Machine Laws

/-- The opcodes of a legal configuration, pairwise (R8, R81). -/
structure DistinctOpcodes (c : Config) : Prop where
  size_nop : c.opSize ≠ c.opNop
  read_nop : c.opRead ≠ c.opNop
  write_nop : c.opWrite ≠ c.opNop
  read_size : c.opRead ≠ c.opSize
  write_size : c.opWrite ≠ c.opSize
  write_read : c.opWrite ≠ c.opRead

theorem legal_distinctOpcodes {c : Config} (h : c.legal = true) : DistinctOpcodes c := by
  simp only [Config.legal, Bool.and_eq_true, decide_eq_true_eq, List.nodup_cons, List.mem_cons, not_or] at h
  obtain ⟨⟨⟨⟨⟨hnr, hnw, hns, -⟩, ⟨hrw, hrs, -⟩, ⟨hws, -⟩, -⟩, -⟩, -⟩, -⟩ := h
  exact ⟨Ne.symm hns, Ne.symm hnr, Ne.symm hnw, hrs, hws, Ne.symm hrw⟩

/-- A SIZE response is one skip bit and two fields (R8, R165). -/
theorem legal_sizeRespBits {c : Config} (h : c.legal = true) : c.sizeRespBits = 2 * c.fieldBits + 1 := by
  simp only [Config.legal, Bool.and_eq_true, decide_eq_true_eq, beq_iff_eq] at h
  obtain ⟨⟨⟨-, hodd⟩, -⟩, -⟩ := h
  simp only [Config.fieldBits]
  omega

/-! The decoder -/

/-- The first two bits are the opcode (R80). -/
theorem decodeFrame_opcodeBits (c : Config) (widths : Option (Nat × Nat)) (op : BitVec 2) (rest : Bits) :
    decodeFrame c widths (opcodeBits op ++ rest) = decodeBody c widths op.toNat rest := by
  show decodeBody c widths (toUnsigned (natToBits op.toNat 2)) rest = _
  rw [toUnsigned_natToBits op.isLt]

theorem decodeFrame_size (c : Config) (widths : Option (Nat × Nat)) :
    decodeFrame c widths (opcodeBits c.opSize) = .ok .size := by
  rw [← List.append_nil (opcodeBits c.opSize), decodeFrame_opcodeBits]
  simp [decodeBody, decodeSize]

theorem decodeFrame_read {c : Config} (h : DistinctOpcodes c) {aw a : Nat} (ha : a < 2 ^ aw) (dw : Nat) :
    decodeFrame c (some (aw, dw)) (opcodeBits c.opRead ++ natToBits a aw) = .ok (.readFrame a) := by
  rw [decodeFrame_opcodeBits]
  simp [decodeBody, decodeRead, BitVec.toNat_inj, h.read_size, toUnsigned_natToBits ha]

/-- Whole words cut off the front of a bit string that starts with them (R94, R143). -/
theorem dataWords_flatMap_append {dw : Nat} {ws : List Nat} (h : ∀ w ∈ ws, w < 2 ^ dw) (rest : Bits) :
    dataWords dw ws.length ((ws.flatMap fun w => natToBits w dw) ++ rest) = ws := by
  induction ws with
  | nil => rfl
  | cons w ws ih =>
    have hw : w < 2 ^ dw := h w (by simp)
    simp [dataWords, List.append_assoc, toUnsigned_natToBits hw, List.drop_left',
      ih fun x hx => h x (List.mem_cons_of_mem _ hx)]

theorem decodeData_flatMap {dw : Nat} {ws : List Nat} (hdw : 1 ≤ dw) (hne : ws ≠ [])
    (h : ∀ w ∈ ws, w < 2 ^ dw) : decodeData dw (ws.flatMap fun w => natToBits w dw) = .ok ws := by
  have hlen := flatMap_natToBits_length ws dw
  have hpos : 0 < (ws.flatMap fun w => natToBits w dw).length := by
    rw [hlen]; exact Nat.mul_pos (List.length_pos_iff.2 hne) hdw
  have hwords := dataWords_flatMap_append h []
  rw [List.append_nil] at hwords
  rw [decodeData, if_neg (List.length_pos_iff.1 hpos), if_neg (by rw [hlen, Nat.mul_mod_left]; omega), hlen,
    Nat.mul_div_cancel _ hdw, hwords]

theorem decodeFrame_write {c : Config} (h : DistinctOpcodes c) {aw dw a : Nat} {ws : List Nat} (ha : a < 2 ^ aw)
    (hdw : 1 ≤ dw) (hne : ws ≠ []) (hw : ∀ w ∈ ws, w < 2 ^ dw) :
    decodeFrame c (some (aw, dw)) (opcodeBits c.opWrite ++ natToBits a aw ++ ws.flatMap fun w => natToBits w dw)
      = .ok (.writeFrame a ws) := by
  rw [List.append_assoc, decodeFrame_opcodeBits]
  simp [decodeBody, decodeWrite, BitVec.toNat_inj, h.write_size, h.write_read, List.take_left', List.drop_left',
    toUnsigned_natToBits ha, decodeData_flatMap hdw hne hw]

/-! The first exchange of a granted command -/

/-- XSTART in a granted state, with another opcode than `OP_NOP` (R132, R221). -/
theorem xstart_opcodeBits {op : BitVec 2} {s : State} (hop : op ≠ s.cfg.opNop) (hg : granted s = true)
    (rest : Bits) (n k : Nat) (w : Option Nat) :
    xstart (opcodeBits op ++ rest) n k w s = .next (loadExchange (opcodeBits op ++ rest) n k w s) :=
  xstart_ok hg (take_opcode_ne hop rest) n k w

theorem exec_initCmd_starts {s : State} (hc : DistinctOpcodes s.cfg) (hg : granted s = true)
    (hl : s.lc = .uninitialized) :
    exec .initCmd s = .next (loadExchange (opcodeBits s.cfg.opSize) s.cfg.sizeRespBits 1 (some s.cfg.fieldBits)
      (latch .initCmd s)) := by
  show execInit s = _
  rw [execInit, if_pos hg, if_pos hl, startSize, latch_cfg, encode_size, ← List.append_nil (opcodeBits _)]
  exact xstart_opcodeBits (s := latch .initCmd s) hc.size_nop (by simpa using hg) _ _ _ _

/-- READ past its checks, not cut into sub-transfers (R181, R231). -/
theorem exec_readCmd_starts {s : State} {aw dw a n : Nat} (hc : DistinctOpcodes s.cfg)
    (hchunk : s.cfg.chunkWords = none) (hg : granted s = true) (hl : s.lc = .ready) (haw : s.aw = some aw)
    (hdw : s.dw = some dw) (ha : a < 2 ^ aw) (hn : 1 ≤ n) :
    exec (.readCmd a n) s = .next (loadExchange (opcodeBits s.cfg.opRead ++ natToBits a aw) ((n + 1) * dw) dw
      (some dw) (beginTransfer (latch (.readCmd a n) s))) := by
  have hplan : plan s.cfg.chunkWords a n = [(a, n)] := by rw [hchunk]; rfl
  have hvalid : (readInRange aw a n && startsEncodable aw [(a, n)]) = true := by
    simp [readInRange, startsEncodable, ha, hn]
  show execRead a n s = _
  simp only [execRead, hg, isReady, hl, beq_self_eq_true, haw, hdw, hplan, hvalid, if_true, startRead,
    beginTransfer_cfg, latch_cfg, encode_readFrame ha]
  exact xstart_opcodeBits (by simpa using hc.read_nop) (by simpa using hg) _ _ _ _

/-- A valid WRITE's words, as they are latched, fit the data width (R203). -/
theorem writeInRange_iff {aw dw a : Nat} {ws : List WriteWord} :
    writeInRange aw dw a ws = true ↔ a < 2 ^ aw ∧ ws ≠ [] ∧ ∀ w ∈ ws, wordFits dw w = true := by
  simp [writeInRange, Nat.one_le_iff_ne_zero, and_assoc]

theorem map_wordValue_lt {dw : Nat} {ws : List WriteWord} (h : ∀ w ∈ ws, wordFits dw w = true) :
    ∀ w ∈ ws.map wordValue, w < 2 ^ dw := by
  intro w hw
  obtain ⟨x, hx, rfl⟩ := List.mem_map.1 hw
  exact wordValue_lt (h x hx)

/-- WRITE past its checks, not cut into sub-transfers (R201, R231): all its words go in one frame. -/
theorem exec_writeCmd_starts {s : State} {aw dw a : Nat} {ws : List WriteWord} (hc : DistinctOpcodes s.cfg)
    (hchunk : s.cfg.chunkWords = none) (hg : granted s = true) (hl : s.lc = .ready) (haw : s.aw = some aw)
    (hdw : s.dw = some dw) (hv : writeInRange aw dw a ws = true) :
    exec (.writeCmd a ws) s = .next (loadExchange
      (opcodeBits s.cfg.opWrite ++ natToBits a aw ++ (ws.map wordValue).flatMap fun w => natToBits w dw) 0 0
      (some dw) (beginTransfer (latch (.writeCmd a ws) s))) := by
  obtain ⟨ha, -, hfits⟩ := writeInRange_iff.1 hv
  have hplan : plan s.cfg.chunkWords a ws.length = [(a, ws.length)] := by rw [hchunk]; rfl
  have hstart : startsEncodable aw [(a, ws.length)] = true := by simp [startsEncodable, ha]
  have hsub : subWords ws.length (beginTransfer (latch (.writeCmd a ws) s)) = ws.map wordValue :=
    List.take_of_length_le (by simp [latch])
  show execWrite a ws s = _
  simp only [execWrite, hg, isReady, hl, beq_self_eq_true, haw, hdw, hplan, hv, hstart, Bool.and_self, if_true,
    startWrite, hsub, beginTransfer_cfg, latch_cfg, encode_writeFrame ha (map_wordValue_lt hfits),
    List.append_assoc]
  exact xstart_opcodeBits (by simpa using hc.write_nop) (by simpa using hg) _ _ _ _

end Sys2Proof.Proofs
end

section
/-! Commands run to their end on the reference peer (spec/20_memory.md R66 to R69), whatever the environment draws:
the frame is transmitted, the peer answers it or stores its words, the answer is sampled, and the command acts on
the outcome. -/

namespace Sys2Proof.Proofs

open Machine Laws

/-! Runs of the block whatever its inputs -/

/-- Whatever the inputs of the next `k` steps of the block, they lead from `s` to a state with `Q`, with the moves
that follow still to come. -/
def TicksLeadTo (k : Nat) (s : State) (Q : State → Prop) : Prop :=
  ∀ (xs : List Inputs) (rest : List Move), xs.length = k →
    ∃ t, runFor k (withScript s (xs.map .tick ++ rest)) = .next (withScript t rest) ∧ Q t

namespace TicksLeadTo

variable {s : State} {Q R : State → Prop}

theorem zero (h : Q s) : TicksLeadTo 0 s Q := by
  intro xs rest hx
  rw [List.length_eq_zero_iff.1 hx]
  exact ⟨s, rfl, h⟩

/-- One step that is the same for all inputs and all moves that follow. -/
theorem one (h : ∀ x rest, ∃ t, blockStep x (withScript s rest) = .next (withScript t rest) ∧ Q t) :
    TicksLeadTo 1 s Q := by
  intro xs rest hx
  obtain ⟨x, rfl⟩ := List.length_eq_one_iff.1 hx
  obtain ⟨t, ht, hq⟩ := h x rest
  have hstep : step (withScript s (.tick x :: rest)) = .next (withScript t rest) := ht
  exact ⟨t, runFor_succ_next hstep 0, hq⟩

theorem trans {j k : Nat} (h : TicksLeadTo j s Q) (hk : ∀ t, Q t → TicksLeadTo k t R) :
    TicksLeadTo (j + k) s R := by
  intro xs rest hx
  have htake : (xs.take j).length = j := by simp [hx]
  have hdrop : (xs.drop j).length = k := by simp [hx]
  obtain ⟨t, ht, hq⟩ := h (xs.take j) ((xs.drop j).map .tick ++ rest) htake
  obtain ⟨u, hu, hr⟩ := hk t hq (xs.drop j) rest hdrop
  rw [← List.append_assoc, ← List.map_append, List.take_append_drop] at ht
  exact ⟨u, (runFor_add ht k).trans hu, hr⟩

/-- A step that takes an invariant from `k + 1` to `k`, as often as the invariant says. -/
theorem iterate {I : Nat → State → Prop} (h : ∀ k s, I (k + 1) s → TicksLeadTo 1 s (I k)) {k : Nat}
    (hs : I k s) : TicksLeadTo k s (I 0) := by
  induction k generalizing s with
  | zero => exact zero hs
  | succ k ih => rw [Nat.add_comm]; exact (h k s hs).trans fun _ ht => ih ht

end TicksLeadTo

/-! The frame is transmitted (R133) -/

theorem SameCommand.trans {s t u : State} (h : SameCommand s t) (k : SameCommand t u) : SameCommand s u :=
  ⟨k.cfg.trans h.cfg, k.lc.trans h.lc, k.aw.trans h.aw, k.dw.trans h.dw, k.busy.trans h.busy,
    k.owner.trans h.owner, k.pending.trans h.pending, k.cmd.trans h.cmd⟩

/-- `t` is in the exchange that the command of `s` has started, all of its frame but `k` bits transmitted. -/
structure Sending (s : State) (p : Bits) (n skip wlen k : Nat) (t : State) : Prop where
  same : SameCommand s t
  peer : t.env.peer = s.env.peer
  phase : t.eng.ph = .tx
  frame : t.eng.txbuf = p
  left : t.eng.txi + k = p.length
  asked : t.eng.rxn = n
  exchange : ExchangeAt (some p) n skip wlen t.eng

section Exchange

variable {s t : State} {p : Bits} {n skip wlen : Nat}

theorem sending_loadExchange (s : State) (p : Bits) (n skip : Nat) (hw : 0 < wlen) :
    Sending s p n skip wlen p.length (loadExchange p n skip (some wlen) s) where
  same := ⟨rfl, rfl, rfl, rfl, rfl, rfl, rfl, rfl⟩
  peer := rfl
  phase := rfl
  frame := rfl
  left := Nat.zero_add _
  asked := rfl
  exchange := exchangeAt_loaded p n skip hw

/-- TXBIT transmits one more bit (R133). -/
theorem Sending.txBit {k : Nat} (h : Sending s p n skip wlen (k + 1) t) :
    TicksLeadTo 1 t (Sending s p n skip wlen k) := by
  have hleft := h.left
  have hmore : t.eng.txi < t.eng.txbuf.length := by rw [h.frame]; omega
  refine .one fun x rest => ⟨txBitStep t, ?_, ?_⟩
  · simp only [blockStep, withScript_eng, h.phase, hmore, if_true]; rfl
  · exact ⟨h.same.trans ⟨rfl, rfl, rfl, rfl, rfl, rfl, rfl, rfl⟩, h.peer, h.phase, h.frame,
      by show t.eng.txi + 1 + k = p.length; omega, h.asked, h.exchange.moved h.exchange.silent h.exchange.asked⟩

/-- A started exchange transmits its whole frame. -/
theorem loadExchange_ticks (s : State) (p : Bits) (n skip : Nat) (hw : 0 < wlen) :
    TicksLeadTo p.length (loadExchange p n skip (some wlen) s) (Sending s p n skip wlen 0) :=
  .iterate (fun _ _ => Sending.txBit) (sending_loadExchange s p n skip hw)

theorem Sending.frameSent (h : Sending s p n skip wlen 0 t) : frameSent t = true :=
  (frameSent_iff t).2 ⟨h.phase, by rw [h.frame]; exact h.left⟩

/-- At the end of `TX` the frame is executed (R134). -/
theorem Sending.receives {i : Instr} (h : Sending s p n skip wlen 0 t)
    (hd : decodeFrame t.cfg (frameWidths t) p = .ok i) (x : Inputs) (rest : List Move) :
    blockStep x (withScript t rest) = exec i (withScript t rest) := by
  have hleft := h.left
  rw [← h.frame] at hd
  have hdone : ¬ t.eng.txi < t.eng.txbuf.length := by rw [h.frame]; omega
  have hd : decodeFrame (withScript t rest).cfg (frameWidths (withScript t rest)) (withScript t rest).eng.txbuf
    = .ok i := hd
  rw [blockStep_receive (s := withScript t rest) h.phase hdone, receiveFrame, hd]

/-! The answer is sampled (R135, R141, R142) -/

/-- `t` samples the answer to the exchange that the command of `s` has started, `k` bits of it still to come: the
bits dropped are the environment's, those after them are `data`, in part sampled and in part still promised. -/
structure Sampling (s : State) (p data : Bits) (n skip wlen k : Nat) (t : State) : Prop where
  same : SameCommand s t
  peer : t.env.peer = s.env.peer
  phase : t.eng.ph = .rx
  asked : t.eng.rxn = k
  exchange : ExchangeAt (some p) n skip wlen t.eng
  promised : ∃ left : Bits, t.env.answer = List.replicate t.eng.skip none ++ left.map some ∧
    t.eng.skip + left.length = k ∧ t.eng.rxbuf.drop skip ++ left = data

theorem sampleBit_counts (b : Bool) (e : Engine) :
    (sampleBit b e).rxbuf = e.rxbuf ++ [b] ∧ (sampleBit b e).rxn = e.rxn - 1 ∧
      (sampleBit b e).skip = e.skip - 1 := by
  by_cases hskip : 0 < e.skip
  · rw [sampleBit_dropped hskip]; exact ⟨rfl, rfl, rfl⟩
  · have hskip : e.skip = 0 := by omega
    by_cases hw : e.wlen = some (e.wacc.length + 1)
    · rw [sampleBit_completes hskip hw]; exact ⟨rfl, rfl, by simp [hskip]⟩
    · rw [sampleBit_gathers hskip hw]; exact ⟨rfl, rfl, by simp [hskip]⟩

/-- What the peer promised stays promised: a dropped bit is anything, a later one is the next of the data. -/
theorem promised_sampleBit {f : Option Bits} {e : Engine} {left : Bits} {k : Nat}
    (he : ExchangeAt f n skip wlen e) (hk : e.skip + left.length = k + 1) (b : Bool) {answer : List (Option Bool)}
    (ha : answer = List.replicate e.skip none ++ left.map some) :
    ∃ left' : Bits,
      answer.tail = List.replicate (sampleBit (responseBit b answer) e).skip none ++ left'.map some ∧
      (sampleBit (responseBit b answer) e).skip + left'.length = k ∧
      (sampleBit (responseBit b answer) e).rxbuf.drop skip ++ left' = e.rxbuf.drop skip ++ left := by
  obtain ⟨hbuf, -, hskip⟩ := sampleBit_counts (responseBit b answer) e
  have hskipped := he.skipped
  rw [hbuf, hskip]
  by_cases hs : 0 < e.skip
  · refine ⟨left, ?_, by omega, ?_⟩
    · obtain ⟨j, hj⟩ := Nat.exists_eq_succ_of_ne_zero hs.ne'
      rw [ha, hj]; rfl
    · rw [List.drop_eq_nil_of_le (by simp; omega), List.drop_eq_nil_of_le (by omega)]
  · have hs : e.skip = 0 := by omega
    obtain ⟨d, left, rfl⟩ := List.exists_cons_of_length_eq_add_one (n := k) (l := left) (by omega)
    have hbit : responseBit b answer = d := by rw [ha, hs]; rfl
    refine ⟨left, by rw [ha, hs]; rfl, by simp at hk; omega, ?_⟩
    rw [hbit, List.drop_append_of_le_length (by omega), List.append_assoc, List.singleton_append]

/-- RXBIT samples one more bit (R135). -/
theorem Sampling.rxBit {data : Bits} {k : Nat} (h : Sampling s p data n skip wlen (k + 1) t) :
    TicksLeadTo 1 t (Sampling s p data n skip wlen k) := by
  have hmore : 0 < t.eng.rxn := by rw [h.asked]; omega
  obtain ⟨left, ha, hk, hdata⟩ := h.promised
  refine .one fun x rest => ⟨rxBitStep x.rxBit t, ?_, ?_⟩
  · simp only [blockStep, withScript_eng, h.phase, hmore, if_true]; rfl
  · obtain ⟨hph, -⟩ := sampleBit_frame (responseBit x.rxBit t.env.answer) t.eng
    obtain ⟨-, hrxn, -⟩ := sampleBit_counts (responseBit x.rxBit t.env.answer) t.eng
    obtain ⟨left', ha', hk', hdata'⟩ := promised_sampleBit h.exchange hk x.rxBit ha
    refine ⟨h.same.trans ⟨rfl, rfl, rfl, rfl, rfl, rfl, rfl, rfl⟩, h.peer, hph.trans h.phase,
      hrxn.trans (by rw [h.asked]; rfl), h.exchange.sampleBit h.phase hmore _, left', ha', hk',
      hdata'.trans hdata⟩

/-- The exchange that the command of `s` has started ended `Ok`, with the words `ws` completed and the peer `q`. -/
structure Answered (s : State) (q : Peer) (ws : List Nat) (t : State) : Prop where
  same : SameCommand s t
  peer : t.env.peer = q
  phase : t.eng.ph = .idle
  outcome : ∃ r, t.eng.outcome = some (.ok r)
  words : t.eng.xq = ws

/-- The words completed are the ones whose bits were sampled after the skip (R143, R144). -/
theorem ExchangeAt.words_eq {f : Option Bits} {ws : List Nat} {e : Engine}
    (h : ExchangeAt f (ws.length * wlen + skip) skip wlen e) (hn : e.rxn = 0) (hfit : ∀ w ∈ ws, w < 2 ^ wlen)
    (hdata : e.rxbuf.drop skip = ws.flatMap fun w => natToBits w wlen) : e.xq = ws :=
  calc e.xq = dataWords wlen e.xq.length ((e.xq.flatMap fun w => natToBits w wlen) ++ e.wacc) :=
        (dataWords_flatMap_append h.fits _).symm
    _ = dataWords wlen ws.length ((ws.flatMap fun w => natToBits w wlen) ++ []) := by
        rw [h.words_length hn, h.stream, hdata, List.append_nil]
    _ = ws := dataWords_flatMap_append hfit []

/-- The end of `RX` (R136): all promised bits are sampled, so the words are the promised ones. -/
theorem Sampling.ends {ws : List Nat} (hfit : ∀ w ∈ ws, w < 2 ^ wlen)
    (h : Sampling s p (ws.flatMap fun w => natToBits w wlen) (ws.length * wlen + skip) skip wlen 0 t) :
    TicksLeadTo 1 t (Answered s s.env.peer ws) := by
  obtain ⟨left, -, hk, hdata⟩ := h.promised
  obtain rfl : left = [] := List.length_eq_zero_iff.1 (by omega)
  rw [List.append_nil] at hdata
  refine .one fun x rest => ⟨endRx t, ?_, ?_⟩
  · simp only [blockStep, withScript_eng, h.phase, h.asked]; rfl
  · exact ⟨h.same.trans ⟨rfl, rfl, rfl, rfl, rfl, rfl, rfl, rfl⟩, h.peer, rfl, ⟨_, rfl⟩,
      h.exchange.words_eq h.asked hfit hdata⟩

theorem Sampling.ticks {ws : List Nat} (hfit : ∀ w ∈ ws, w < 2 ^ wlen)
    (h : Sampling s p (ws.flatMap fun w => natToBits w wlen) (ws.length * wlen + skip) skip wlen n t) :
    TicksLeadTo (n + 1) t (Answered s s.env.peer ws) :=
  .trans (.iterate (fun _ _ => Sampling.rxBit) h) fun _ => Sampling.ends hfit

end Exchange

end Sys2Proof.Proofs
end

section
/-! The three commands on the reference peer, from the frame it receives to the return (spec/20_memory.md R67 to R69,
spec/42_size_initialize.md R166, spec/43_read.md R190, spec/44_write.md R201). -/

namespace Sys2Proof.Proofs

open Machine Laws

/-! What the reference peer answers -/

theorem frameWidths_reference {s : State} {paw pdw : Nat} {m : Memory} (h : s.env.peer = .reference paw pdw m) :
    frameWidths s = some (paw, pdw) := by
  simp [frameWidths, h]

theorem endTx_withScript (ans : List (Option Bool)) (s : State) (rest : List Move) :
    endTx ans (withScript s rest) = withScript (endTx ans s) rest := by
  by_cases h : 0 < s.eng.rxn
  · rw [endTx_sampling h, endTx_sampling (s := withScript s rest) h]; rfl
  · have h : s.eng.rxn = 0 := by omega
    rw [endTx_done h, endTx_done (s := withScript s rest) h]; rfl

section FrameSent

variable {s : State} (h : frameSent s = true)
include h

theorem exec_size_sent : exec .size s = .next (endTx (sizeAnswer s.cfg.fieldBits s.env.peer) s) :=
  if_pos h

theorem exec_readFrame_sent (a : Nat) :
    exec (.readFrame a) s = .next (endTx (readAnswer a s.eng.rxn s.env.peer) s) :=
  if_pos h

/-- With no bit requested a WRITE frame ends its exchange (R134, R206). -/
theorem exec_writeFrame_done (hn : s.eng.rxn = 0) (a : Nat) (ws : List Nat) :
    exec (.writeFrame a ws) s =
      .next (endExchange (.ok []) { s with env := { s.env with peer := peerWrite a ws s.env.peer } }) := by
  show execWriteFrame a ws s = _
  rw [execWriteFrame, if_pos h]
  exact congrArg _ (endTx_done (s := { s with env := { s.env with peer := peerWrite a ws s.env.peer } }) hn [])

end FrameSent

/-- The answer to a READ frame of `n` words: a word of draws, then the words (R68). -/
theorem readAnswer_reference {pdw : Nat} (h : 1 ≤ pdw) (paw a n : Nat) (m : Memory) :
    readAnswer a ((n + 1) * pdw) (.reference paw pdw m) = List.replicate pdw none ++
      ((memRead paw pdw m a n).flatMap fun w => natToBits w pdw).map some := by
  rw [readAnswer, Nat.mul_div_cancel _ h, Nat.add_sub_cancel]

theorem memRead_lt {paw pdw : Nat} {m : Memory} (hm : memWf paw pdw m = true) (a n : Nat) :
    ∀ w ∈ memRead paw pdw m a n, w < 2 ^ pdw := by
  induction n generalizing a with
  | zero => nofun
  | succ n ih =>
    intro w hw
    rcases List.mem_cons.1 hw with rfl | hw
    · exact memCell_lt hm _
    · exact ih _ w hw

/-! The exchange as a whole -/

/-- The peer of `s` answers the frame of `i`, sent with `n` bits requested, with `ans` and changes nothing. -/
def PeerAnswers (s : State) (i : Instr) (n : Nat) (ans : List (Option Bool)) : Prop :=
  ∀ u, frameSent u = true → u.cfg = s.cfg → u.env.peer = s.env.peer → u.eng.rxn = n →
    exec i u = .next (endTx ans u)

/-- The peer's answer to a SIZE frame is its two widths after one drawn bit (R67). -/
theorem peerAnswers_size {s : State} {paw pdw : Nat} {m : Memory} (hp : s.env.peer = .reference paw pdw m)
    (n : Nat) : PeerAnswers s .size n
      (List.replicate 1 none ++ ([paw, pdw].flatMap fun w => natToBits w s.cfg.fieldBits).map some) := by
  intro u hu hcfg hpeer _
  rw [exec_size_sent hu, hcfg, hpeer, hp]
  simp [sizeAnswer]

/-- The peer's answer to a READ frame is its memory's words after one drawn word (R68). -/
theorem peerAnswers_readFrame {s : State} {paw pdw : Nat} {m : Memory} (hp : s.env.peer = .reference paw pdw m)
    (hpdw : 1 ≤ pdw) (a n : Nat) : PeerAnswers s (.readFrame a) ((n + 1) * pdw)
      (List.replicate pdw none ++ ((memRead paw pdw m a n).flatMap fun w => natToBits w pdw).map some) := by
  intro u hu _ hpeer hn
  rw [exec_readFrame_sent hu, hn, hpeer, hp, readAnswer_reference hpdw]

section Exchange

variable {s t : State} {i : Instr} {p : Bits} {paw pdw n skip wlen : Nat} {m : Memory}

/-- The peer's answer is what is sampled (R134). -/
theorem Sending.samples {data : Bits} (h : Sending s p n skip wlen 0 t) (hp : s.env.peer = .reference paw pdw m)
    (hd : decodeFrame s.cfg (some (paw, pdw)) p = .ok i) (hn : 0 < n) (hlen : skip + data.length = n)
    (hans : PeerAnswers s i n (List.replicate skip none ++ data.map some)) :
    TicksLeadTo 1 t (Sampling s p data n skip wlen n) := by
  have hpeer : t.env.peer = .reference paw pdw m := h.peer.trans hp
  have hd : decodeFrame t.cfg (frameWidths t) p = .ok i := by rwa [frameWidths_reference hpeer, h.same.cfg]
  have hbuf : t.eng.rxbuf = [] := h.exchange.silent h.phase
  have hskip : t.eng.skip = skip := by rw [h.exchange.skipped, hbuf]; rfl
  refine .one fun x rest => ⟨endTx (List.replicate skip none ++ data.map some) t, ?_, ?_⟩
  · rw [h.receives hd, hans (withScript t rest) h.frameSent h.same.cfg h.peer h.asked, endTx_withScript]
  · rw [endTx_sampling (h.asked ▸ hn)]
    exact ⟨h.same.trans ⟨rfl, rfl, rfl, rfl, rfl, rfl, rfl, rfl⟩, h.peer, rfl, h.asked,
      h.exchange.moved nofun fun _ => hn, data, by rw [hskip], by rw [hskip]; exact hlen, by rw [hbuf]; simp⟩

/-- An exchange whose answer the peer promises brings the words of that answer to the command. -/
theorem exchange_answered {ws : List Nat} (hp : s.env.peer = .reference paw pdw m)
    (hd : decodeFrame s.cfg (some (paw, pdw)) p = .ok i) (hw : 0 < wlen) (hn : ws.length * wlen + skip = n)
    (hpos : 0 < n) (hfit : ∀ w ∈ ws, w < 2 ^ wlen)
    (hans : PeerAnswers s i n (List.replicate skip none ++ (ws.flatMap fun w => natToBits w wlen).map some)) :
    TicksLeadTo (p.length + 1 + (n + 1)) (loadExchange p n skip (some wlen) s) (Answered s s.env.peer ws) := by
  have hlen : skip + (ws.flatMap fun w => natToBits w wlen).length = n := by
    rw [flatMap_natToBits_length, Nat.add_comm, hn]
  have hsend := loadExchange_ticks s p n skip hw
  refine (hsend.trans fun t ht => ht.samples hp hd hpos hlen hans).trans fun t ht => ?_
  subst hn
  exact ht.ticks hfit

/-- A WRITE frame, with no bit requested, ends its exchange with its words in the memory (R69, R134). -/
theorem exchange_written {a : Nat} {ws : List Nat} (hp : s.env.peer = .reference paw pdw m)
    (hd : decodeFrame s.cfg (some (paw, pdw)) p = .ok (.writeFrame a ws)) (hw : 0 < wlen) :
    TicksLeadTo (p.length + 1) (loadExchange p 0 0 (some wlen) s)
      (Answered s (.reference paw pdw (memWrite paw m a ws)) []) := by
  refine (loadExchange_ticks s p 0 0 hw).trans fun t h => ?_
  have hpeer : t.env.peer = .reference paw pdw m := h.peer.trans hp
  have hd : decodeFrame t.cfg (frameWidths t) p = .ok (.writeFrame a ws) := by
    rwa [frameWidths_reference hpeer, h.same.cfg]
  have hbuf : t.eng.rxbuf = [] := h.exchange.silent h.phase
  have hxq : t.eng.xq = [] :=
    ExchangeAt.words_eq (ws := []) (skip := 0) (by simpa using h.exchange) h.asked nofun (by simp [hbuf])
  refine .one fun x rest =>
    ⟨endExchange (.ok []) { t with env := { t.env with peer := peerWrite a ws t.env.peer } }, ?_, ?_⟩
  · exact (h.receives hd x rest).trans (exec_writeFrame_done (s := withScript t rest) h.frameSent h.asked a ws)
  · exact ⟨h.same.trans ⟨rfl, rfl, rfl, rfl, rfl, rfl, rfl, rfl⟩, by simp [hpeer, peerWrite], rfl, ⟨_, rfl⟩,
      hxq⟩

end Exchange

/-! The command acts on the outcome -/

/-- An exchange that ended `Ok` is followed by the step in which its command goes on (R165, R181, R201). -/
theorem Answered.collects {s t : State} {q : Peer} {ws : List Nat} (h : Answered s q ws t) (hb : s.busy = true)
    (x : Inputs) (rest : List Move) :
    ∃ r, blockStep x (withScript t rest) = collect (.ok r) (withScript t rest) := by
  obtain ⟨r, hr⟩ := h.outcome
  exact ⟨r, by simp [blockStep, idleStep, h.phase, h.same.busy, hb, hr]⟩

/-- INITIALIZE goes on with two fields of at least 1: Ready (R166). -/
theorem collect_initCmd {s : State} {aw dw : Nat} (hop : s.cmd.op = some .initCmd) (h : s.eng.xq = [aw, dw])
    (ha : 1 ≤ aw) (hd : 1 ≤ dw) (r : Bits) :
    collect (.ok r) s = .next (release .ok .nothing
      { s with lc := .ready, aw := some aw, dw := some dw, cmd := { s.cmd with rq := [aw, dw] } }) := by
  have hne : ¬(aw = 0 ∨ dw = 0) := by omega
  simp only [collect, hop, finishInit, h, if_neg hne]

/-- INITIALIZE with the two widths decoded returns `OK` in the next step and is Ready. -/
theorem Answered.returns_ready {s t : State} {q : Peer} {aw dw : Nat} (h : Answered s q [aw, dw] t)
    (hb : s.busy = true) (hop : s.cmd.op = some .initCmd) (ha : 1 ≤ aw) (hd : 1 ≤ dw) :
    TicksLeadTo 1 t fun u => u.lc = .ready ∧ u.aw = some aw ∧ u.dw = some dw ∧ u.status = some .ok ∧
      u.busy = false ∧ u.env.peer = q := by
  refine .one fun x rest => ?_
  obtain ⟨r, hr⟩ := h.collects hb x rest
  have hop : t.cmd.op = some .initCmd := h.same.cmd ▸ hop
  exact ⟨release .ok .nothing
      { t with lc := .ready, aw := some aw, dw := some dw, cmd := { t.cmd with rq := [aw, dw] } },
    hr.trans (collect_initCmd (s := withScript t rest) hop h.words ha hd r), rfl, rfl, rfl, rfl, rfl, h.peer⟩

/-- `s` with its only sub-transfer of `n` words done and its command returned (R181, R201 step 6). -/
def transferReturned (n : Nat) (words : List Nat) (d : RetData) (s : State) : State :=
  release .ok d { s with cmd := { s.cmd with rq := s.cmd.rq ++ words, doneWords := s.cmd.doneWords + n } }

/-- The command in progress in `s` has returned `OK` with the data `d` and left the peer `q` (R262, R272). -/
structure ReturnedOk (s : State) (d : RetData) (q : Peer) (u : State) : Prop where
  status : u.status = some .ok
  ret : u.ports.ret = some (s.owner, .ok, d)
  free : u.busy = false
  lc : u.lc = s.lc
  aw : u.aw = s.aw
  dw : u.dw = s.dw
  peer : u.env.peer = q

theorem Answered.returnedOk {s t : State} {q : Peer} {ws : List Nat} (h : Answered s q ws t) (n : Nat)
    (words : List Nat) (d : RetData) : ReturnedOk s d q (transferReturned n words d t) :=
  ⟨rfl, congrArg (fun o => some (o, Status.ok, d)) h.same.owner, rfl, h.same.lc, h.same.aw, h.same.dw, h.peer⟩

section Single

variable {s : State} {p : Nat × Nat} (hp : currentPlan s = some [p]) (hk : s.cmd.ki = 0)
include hp hk

theorem collect_readCmd_single (hop : s.cmd.op = some .readCmd) (r : Bits) :
    collect (.ok r) s = .next (transferReturned p.2 s.eng.xq (.words (s.cmd.rq ++ s.eng.xq)) s) := by
  simp [collect, hop, finishTransfer, hp, hk, finishSub, transferReturned]

theorem collect_writeCmd_single (hop : s.cmd.op = some .writeCmd) (r : Bits) :
    collect (.ok r) s = .next (transferReturned p.2 [] .nothing s) := by
  simp [collect, hop, finishTransfer, hp, hk, finishSub, transferReturned]

end Single

section Returns

variable {s t : State} {p : Nat × Nat} {q : Peer} {ws : List Nat}

/-- READ returns the words of its one exchange after those it had (R181 steps 5e and 6, R190). -/
theorem Answered.returns_words (h : Answered s q ws t) (hb : s.busy = true) (hop : s.cmd.op = some .readCmd)
    (hp : currentPlan s = some [p]) (hk : s.cmd.ki = 0) :
    TicksLeadTo 1 t (ReturnedOk s (.words (s.cmd.rq ++ ws)) q) := by
  refine .one fun x rest => ?_
  obtain ⟨r, hr⟩ := h.collects hb x rest
  rw [← h.same.currentPlan] at hp
  rw [← h.same.cmd] at hk hop ⊢
  rw [← h.words]
  exact ⟨transferReturned p.2 t.eng.xq (.words (t.cmd.rq ++ t.eng.xq)) t,
    hr.trans (collect_readCmd_single (s := withScript t rest) hp hk hop r), h.returnedOk p.2 _ _⟩

/-- WRITE returns no data after its one exchange (R201 steps 5e and 6). -/
theorem Answered.returns_nothing (h : Answered s q ws t) (hb : s.busy = true)
    (hop : s.cmd.op = some .writeCmd) (hp : currentPlan s = some [p]) (hk : s.cmd.ki = 0) :
    TicksLeadTo 1 t (ReturnedOk s .nothing q) := by
  refine .one fun x rest => ?_
  obtain ⟨r, hr⟩ := h.collects hb x rest
  rw [← h.same.currentPlan] at hp
  rw [← h.same.cmd] at hk hop
  exact ⟨transferReturned p.2 [] .nothing t,
    hr.trans (collect_writeCmd_single (s := withScript t rest) hp hk hop r), h.returnedOk p.2 _ _⟩

end Returns

/-- A command of `n` words that is not cut has one sub-transfer, all of it (R231). -/
theorem currentPlan_unchunked {s : State} {a n : Nat} (h : s.cfg.chunkWords = none) (ha : s.cmd.addr = some a)
    (hn : s.cmd.count = some n) : currentPlan s = some [(a, n)] := by
  simp [currentPlan, h, ha, hn, plan]

/-! The obligations -/

/-- Settles O27: the two words INITIALIZE decodes are the widths in the peer's answer. -/
theorem initializeDiscoversTheReferencePeersWidths : Obligations.InitializeDiscoversTheReferencePeersWidths := by
  intro s paw pdw m xs rest hlegal hg hl hp hwf hlen
  have hb := ((granted_iff s).1 hg).1
  have hbits : 2 * s.cfg.fieldBits + 1 = s.cfg.sizeRespBits := (legal_sizeRespBits hlegal).symm
  simp only [hp, peerWf, Bool.and_eq_true, decide_eq_true_eq] at hwf
  obtain ⟨⟨⟨⟨hpaw, hpdw⟩, hpawlt⟩, hpdwlt⟩, -⟩ := hwf
  have hanswered := exchange_answered (s := latch .initCmd s) (ws := [paw, pdw]) hp (decodeFrame_size _ _)
    (fieldBits_pos hlegal) hbits (by omega) (by simp [hpawlt, hpdwlt])
    (peerAnswers_size (s := latch .initCmd s) hp _)
  have hreturned := hanswered.trans fun t ht => ht.returns_ready hb rfl hpaw hpdw
  have hcount : xs.length = (opcodeBits s.cfg.opSize).length + 1 + (s.cfg.sizeRespBits + 1) + 1 := by
    rw [hlen, opcodeBits_length]; omega
  obtain ⟨u, hu, hlc, haw, hdw, hst, hbusy, hpeer⟩ := hreturned xs rest hcount
  exact ⟨_, withScript u rest, exec_initCmd_starts (legal_distinctOpcodes hlegal) hg hl, hcount ▸ hu, hlc, haw,
    hdw, hst, hbusy, hpeer.trans hp, rfl⟩

/-- Settles O35: the words READ completes are the memory's words in the peer's answer. -/
theorem readOnTheReferencePeerReturnsItsMemory : Obligations.ReadOnTheReferencePeerReturnsItsMemory := by
  intro s c aw dw a n m xs rest hlegal hchunk hg howner hl haw hdw hpos hp hwf ha hn hlen
  have hb := ((granted_iff s).1 hg).1
  have hops := legal_distinctOpcodes hlegal
  have hanswered := exchange_answered (s := beginTransfer (latch (.readCmd a n) s)) (n := (n + 1) * dw) hp
    (decodeFrame_read hops ha dw) hpos (by rw [memRead_length, Nat.succ_mul]) (Nat.mul_pos n.succ_pos hpos)
    (memRead_lt hwf a n) (peerAnswers_readFrame (s := beginTransfer (latch (.readCmd a n) s)) hp hpos a n)
  have hreturned := hanswered.trans fun t ht =>
    ht.returns_words hb rfl (currentPlan_unchunked hchunk rfl rfl) rfl
  have hcount : xs.length =
      (opcodeBits s.cfg.opRead ++ natToBits a aw).length + 1 + ((n + 1) * dw + 1) + 1 := by
    rw [hlen, List.length_append, opcodeBits_length, natToBits_length]; omega
  obtain ⟨u, hu, hst, hret, hfree, hulc, huaw, hudw, hpeer⟩ := hreturned xs rest hcount
  exact ⟨_, withScript u rest, exec_readCmd_starts hops hchunk hg hl haw hdw ha hn, hcount ▸ hu, hst,
    hret.trans (congrArg (fun o => some (o, Status.ok, _)) howner), hfree, hulc.trans hl, huaw.trans haw,
    hudw.trans hdw, hpeer.trans hp, rfl⟩

/-- Settles O39: the peer decodes the frame to the words of the command and stores them. -/
theorem writeOnTheReferencePeerStoresItsWords : Obligations.WriteOnTheReferencePeerStoresItsWords := by
  intro s c aw dw a ws m xs rest hlegal hchunk hg howner hl haw hdw hpos hp hv hlen
  have hb := ((granted_iff s).1 hg).1
  have hops := legal_distinctOpcodes hlegal
  obtain ⟨ha, hne, hfits⟩ := writeInRange_iff.1 hv
  have hwritten := exchange_written (s := beginTransfer (latch (.writeCmd a ws) s)) hp
    (decodeFrame_write hops ha hpos (List.map_eq_nil_iff.not.2 hne) (map_wordValue_lt hfits)) hpos
  have hreturned := hwritten.trans fun t ht =>
    ht.returns_nothing hb rfl (currentPlan_unchunked hchunk rfl rfl) rfl
  have hcount : xs.length = (opcodeBits s.cfg.opWrite ++ natToBits a aw ++
      (ws.map wordValue).flatMap fun w => natToBits w dw).length + 1 + 1 := by
    rw [hlen, List.length_append, List.length_append, flatMap_natToBits_length, List.length_map,
      opcodeBits_length, natToBits_length]
  obtain ⟨u, hu, hst, hret, hfree, hulc, huaw, hudw, hpeer⟩ := hreturned xs rest hcount
  exact ⟨_, withScript u rest, exec_writeCmd_starts hops hchunk hg hl haw hdw hv, hcount ▸ hu, hst,
    hret.trans (congrArg (fun o => some (o, Status.ok, _)) howner), hfree, hulc.trans hl, huaw.trans haw,
    hudw.trans hdw, hpeer, rfl⟩

end Sys2Proof.Proofs
end

section
/-! The two directions between operands and frame bits (spec/30_encoding.md section 2, R103): the bit each index of
an encoded frame carries (R91, R92, R94), and that a frame the decoder accepts is the encoding of what it read. -/

namespace Sys2Proof.Proofs

open Machine Laws

/-! The layout of a frame -/

/-- An index past a field of `n` bits is an index of what follows it. -/
theorem getElem?_append_add {l₁ : Bits} {n : Nat} (h : l₁.length = n) (l₂ : Bits) (i : Nat) :
    (l₁ ++ l₂)[n + i]? = l₂[i]? := by
  rw [List.getElem?_append_right (by omega), h, Nat.add_sub_cancel_left]

/-- A numeric field carries bit `i` of its value at its index `i`, whatever follows it (R56, D3). -/
theorem natToBits_append_getElem? (x : Nat) {w i : Nat} (h : i < w) (rest : Bits) :
    (natToBits x w ++ rest)[i]? = some (bitOf x i) := by
  rw [List.getElem?_append_left (by simpa using h), natToBits_getElem _ _ _ h]

/-- The opcode field of a frame (R80). -/
theorem frame_opcode_getElem? (op : BitVec 2) {i : Nat} (h : i < 2) (rest : Bits) :
    (opcodeBits op ++ rest)[i]? = some (bitOf op.toNat i) := natToBits_append_getElem? _ h rest

/-- The address field of a frame (R91, R94). -/
theorem frame_address_getElem? (op : BitVec 2) (a : Nat) {aw i : Nat} (h : i < aw) (rest : Bits) :
    (opcodeBits op ++ (natToBits a aw ++ rest))[2 + i]? = some (bitOf a i) := by
  rw [getElem?_append_add (opcodeBits_length op), natToBits_append_getElem? _ h]

/-- Bit `i` of data word `j` stands `j` whole words and `i` bits into the data part (R94). -/
theorem flatMap_natToBits_getElem? {dw j w i : Nat} {ws : List Nat} (hj : ws[j]? = some w) (hi : i < dw) :
    (ws.flatMap fun w => natToBits w dw)[j * dw + i]? = some (bitOf w i) := by
  induction ws generalizing j with
  | nil => simp at hj
  | cons x xs ih =>
    rw [List.flatMap_cons]
    cases j with
    | zero =>
      obtain rfl : x = w := by simpa using hj
      rw [Nat.zero_mul, Nat.zero_add, natToBits_append_getElem? _ hi]
    | succ j =>
      have hindex : (j + 1) * dw + i = dw + (j * dw + i) := by rw [Nat.succ_mul]; omega
      rw [hindex, getElem?_append_add (natToBits_length x dw), ih (by simpa using hj)]

/-- The data part of a WRITE frame starts after opcode and address (R94). -/
theorem frame_data_getElem? (op : BitVec 2) (a aw : Nat) {dw j w i : Nat} {ws : List Nat} (hj : ws[j]? = some w)
    (hi : i < dw) : (opcodeBits op ++ (natToBits a aw ++ ws.flatMap fun w => natToBits w dw))[2 + aw + j * dw + i]?
      = some (bitOf w i) := by
  have hindex : 2 + aw + j * dw + i = 2 + (aw + (j * dw + i)) := by omega
  rw [hindex, getElem?_append_add (opcodeBits_length op), getElem?_append_add (natToBits_length a aw),
    flatMap_natToBits_getElem? hj hi]

/-- Settles O3, field by field in each of the encoder's three frames. -/
theorem framesHaveTheLayoutOfTheirFormat : Obligations.FramesHaveTheLayoutOfTheirFormat := by
  intro c aw dw a ws ha hws _
  refine ⟨⟨opcodeBits c.opSize ++ [], ?_, rfl, fun i hi => frame_opcode_getElem? _ hi _⟩,
    ⟨opcodeBits c.opRead ++ (natToBits a aw ++ []), ?_, ?_, fun i hi => frame_opcode_getElem? _ hi _,
      fun i hi => frame_address_getElem? _ _ hi _⟩,
    ⟨opcodeBits c.opWrite ++ (natToBits a aw ++ ws.flatMap fun w => natToBits w dw), ?_, ?_,
      fun i hi => frame_opcode_getElem? _ hi _, fun i hi => frame_address_getElem? _ _ hi _,
      fun j w hj i hi => frame_data_getElem? _ _ _ hj hi⟩⟩
  · rw [encode_size, List.append_nil]
  · rw [encode_readFrame ha, List.append_nil]
  · simp
  · rw [encode_writeFrame ha hws, List.append_assoc]
  · rw [List.length_append, List.length_append, opcodeBits_length, natToBits_length, flatMap_natToBits_length,
      Nat.add_assoc]

/-! What the decoder accepts -/

/-- Cutting whole words off a data part loses no bit of it (R94, R103). -/
theorem flatMap_dataWords {dw m : Nat} {d : Bits} (h : d.length = m * dw) :
    ((dataWords dw m d).flatMap fun w => natToBits w dw) = d := by
  induction m generalizing d with
  | zero => simpa [dataWords, eq_comm] using h
  | succ m ih =>
    rw [Nat.succ_mul] at h
    have htake : (d.take dw).length = dw := by rw [List.length_take]; omega
    have hdrop : (d.drop dw).length = m * dw := by rw [List.length_drop]; omega
    rw [dataWords, List.flatMap_cons, natToBits_toUnsigned_of_length htake, ih hdrop, List.take_append_drop]

/-- An accepted data part is one or more whole words, bit for bit (R94, R99 (c)). -/
theorem decodeData_eq_ok {dw : Nat} {d : Bits} {ws : List Nat} (h : decodeData dw d = .ok ws) :
    1 ≤ dw ∧ ws ≠ [] ∧ (ws.flatMap fun w => natToBits w dw) = d := by
  unfold decodeData at h
  split at h
  next => cases h
  next hd =>
    split at h
    next => cases h
    next hwhole =>
      obtain ⟨hdw, hmod⟩ : dw ≠ 0 ∧ d.length % dw = 0 := by simpa [not_or] using hwhole
      cases h
      have hbits := flatMap_dataWords (Nat.div_mul_cancel (Nat.dvd_of_mod_eq_zero hmod)).symm
      refine ⟨Nat.pos_of_ne_zero hdw, fun hnil => hd ?_, hbits⟩
      rw [← hbits, hnil, List.flatMap_nil]

/-- `i` fits the widths and `f` is its frame. -/
def EncodesTo (c : Config) (aw dw : Nat) (i : Instr) (f : Bits) : Prop :=
  i.wellFormed aw dw = true ∧ encode c aw dw i = some f

section Accepted

variable {aw dw : Nat} {rest : Bits} {i : Instr} (c : Config)

theorem decodeSize_encodesTo (h : decodeSize rest = .ok i) : EncodesTo c aw dw i (opcodeBits c.opSize ++ rest) := by
  unfold decodeSize at h
  split at h
  next hrest => cases h; subst hrest; exact ⟨rfl, by rw [encode_size, List.append_nil]⟩
  next => cases h

theorem decodeRead_encodesTo (h : decodeRead (some (aw, dw)) rest = .ok i) :
    EncodesTo c aw dw i (opcodeBits c.opRead ++ rest) := by
  simp only [decodeRead] at h
  split at h
  next hlen =>
    cases h
    have ha : toUnsigned rest < 2 ^ aw := hlen ▸ toUnsigned_lt rest
    exact ⟨decide_eq_true ha, by rw [encode_readFrame ha, natToBits_toUnsigned_of_length hlen]⟩
  next => cases h

theorem decodeWrite_encodesTo (h : decodeWrite (some (aw, dw)) rest = .ok i) :
    EncodesTo c aw dw i (opcodeBits c.opWrite ++ rest) := by
  simp only [decodeWrite] at h
  split at h
  next => cases h
  next hlen =>
    split at h
    next => cases h
    next ws hdata =>
      cases h
      obtain ⟨hdw, hne, hbits⟩ := decodeData_eq_ok hdata
      have hws := decodeData_words_lt hdata
      have htake : (rest.take aw).length = aw := by rw [List.length_take]; omega
      have ha : toUnsigned (rest.take aw) < 2 ^ aw := by simpa only [htake] using toUnsigned_lt (rest.take aw)
      refine ⟨by simpa [Instr.wellFormed, ha, hne] using ⟨hdw, hws⟩, ?_⟩
      rw [encode_writeFrame ha hws, natToBits_toUnsigned_of_length htake, hbits, List.append_assoc,
        List.take_append_drop]

/-- Whichever parameter names the opcode, it is the one the instruction read is encoded with; two parameters may
share a value, since the first match decides. -/
theorem decodeBody_encodesTo {op : BitVec 2} (h : decodeBody c (some (aw, dw)) op.toNat rest = .ok i)
    (hi : i ≠ .nop) : EncodesTo c aw dw i (opcodeBits op ++ rest) := by
  simp only [decodeBody, BitVec.toNat_inj] at h
  split at h
  next hop => exact hop ▸ decodeSize_encodesTo c h
  next =>
    split at h
    next hop => exact hop ▸ decodeRead_encodesTo c h
    next =>
      split at h
      next hop => exact hop ▸ decodeWrite_encodesTo c h
      next =>
        split at h
        next => cases h; exact absurd rfl hi
        next => cases h

end Accepted

/-- Any two bits are an opcode field (R81). -/
theorem exists_opcodeBits_eq : ∀ b0 b1 : Bool, ∃ op : BitVec 2, opcodeBits op = [b0, b1] := by decide

/-- What the decoder accepts begins with an opcode field (R80). -/
theorem decodeFrame_eq_ok {c : Config} {widths : Option (Nat × Nat)} {f : Bits} {i : Instr}
    (h : decodeFrame c widths f = .ok i) :
    ∃ op rest, f = opcodeBits op ++ rest ∧ decodeBody c widths op.toNat rest = .ok i := by
  match f, h with
  | b0 :: b1 :: rest, h =>
    obtain ⟨op, hop⟩ := exists_opcodeBits_eq b0 b1
    have hf : b0 :: b1 :: rest = opcodeBits op ++ rest := by rw [hop]; rfl
    exact ⟨op, rest, hf, by rwa [hf, decodeFrame_opcodeBits] at h⟩

/-- Settles O2: the opcode field selects the layout, and each layout is read without losing a bit. -/
theorem anAcceptedFrameIsTheEncodingOfWhatWasRead : Obligations.AnAcceptedFrameIsTheEncodingOfWhatWasRead := by
  intro c aw dw f i h hi
  obtain ⟨op, rest, rfl, hbody⟩ := decodeFrame_eq_ok h
  exact decodeBody_encodesTo c hbody hi

end Sys2Proof.Proofs
end

section
/-! The BitVector primitives (spec/40_bitvector.md R111 to R117): what each gives, bit by bit and as a number, and
that it stands in `bvResult` with nothing else changed (notes/assumptions/11). -/

namespace Sys2Proof.Proofs

open Machine Laws

/-! `from_unsigned` (R113, R115) -/

theorem fromUnsigned_inDomain {v : Int} {w : Nat} (h0 : 0 ≤ v) (h : v < 2 ^ w) :
    fromUnsigned v w = some (natToBits v.toNat w) :=
  if_neg (by omega)

theorem fromUnsigned_outOfDomain {v : Int} {w : Nat} (h : v < 0 ∨ 2 ^ w ≤ v) : fromUnsigned v w = none :=
  if_pos h

theorem fromUnsigned_length {v : Int} {w : Nat} {b : Bits} (h : fromUnsigned v w = some b) : b.length = w := by
  unfold fromUnsigned at h
  split at h
  next => cases h
  next => cases h; exact natToBits_length _ _

theorem exec_bvFromUnsigned_some {v : Int} {w : Nat} {b : Bits} (h : fromUnsigned v w = some b) (s : State) :
    exec (.bvFromUnsigned v w) s = .next { s with bvResult := some (.bits b) } := by
  show execFromUnsigned v w s = _
  rw [execFromUnsigned, h]; rfl

theorem exec_bvFromUnsigned_none {v : Int} {w : Nat} (h : fromUnsigned v w = none) (s : State) :
    exec (.bvFromUnsigned v w) s = .refused .domainError := by
  show execFromUnsigned v w s = _
  rw [execFromUnsigned, h]

/-- Settles O5: in the domain the bits are `natToBits`'s, outside it there are none. -/
theorem fromUnsignedGivesTheBitsOrRefuses : Obligations.FromUnsignedGivesTheBitsOrRefuses := by
  intro v w s
  constructor
  · rintro ⟨h0, hlt⟩
    exact ⟨_, exec_bvFromUnsigned_some (fromUnsigned_inDomain h0 hlt) s, natToBits_length _ _,
      natToBits_getElem _ _⟩
  · exact fun h => exec_bvFromUnsigned_none (fromUnsigned_outOfDomain h) s

/-- Settles O7: the first two laws are the two round trips between numbers and bits. -/
theorem encodingThenDecodingANumberGivesItBack : Obligations.EncodingThenDecodingANumberGivesItBack := by
  refine ⟨fun v w h => ⟨_, fromUnsigned_fits h, toUnsigned_natToBits h⟩, fun x => ?_,
    fun v w b => fromUnsigned_length⟩
  rw [fromUnsigned_fits (toUnsigned_lt x), natToBits_toUnsigned]

/-! `to_unsigned` (R114) -/

theorem toUnsigned_eq_sum (v : Bits) :
    toUnsigned v = ∑ i ∈ Finset.range v.length, (v.getD i false).toNat * 2 ^ i := by
  induction v with
  | nil => rfl
  | cons b v ih =>
    have htail : ∀ i ∈ Finset.range v.length,
        ((b :: v).getD (i + 1) false).toNat * 2 ^ (i + 1) = 2 * ((v.getD i false).toNat * 2 ^ i) := by
      intro i _
      rw [List.getD_cons_succ, pow_succ]; ring
    rw [List.length_cons, Finset.sum_range_succ', Finset.sum_congr rfl htail, ← Finset.mul_sum, ← ih,
      toUnsigned_cons]
    simp [Nat.add_comm]

/-- Settles O6, by induction on the vector. -/
theorem toUnsignedIsTheSumOfTheBitWeights : Obligations.ToUnsignedIsTheSumOfTheBitWeights :=
  fun v _ => ⟨_, rfl, toUnsigned_eq_sum v, toUnsigned_lt v⟩

/-! `concat` (R116) -/

theorem toUnsigned_append (a b : Bits) : toUnsigned (a ++ b) = toUnsigned a + 2 ^ a.length * toUnsigned b := by
  induction a with
  | nil => simp
  | cons x a ih =>
    rw [List.cons_append, toUnsigned_cons, toUnsigned_cons, ih, List.length_cons, pow_succ]; ring

/-- Settles O9. -/
theorem concatPutsTheLeftOperandFirst : Obligations.ConcatPutsTheLeftOperandFirst :=
  fun a b _ => ⟨a ++ b, rfl, List.length_append, fun _ hi => List.getElem?_append_left hi,
    fun j _ => getElem?_append_add rfl b j, toUnsigned_append a b⟩

/-! `length` and `eq` (R111, R112) -/

theorem bitEq_iff (a b : Bits) :
    bitEq a b = true ↔ a.length = b.length ∧ ∀ i < a.length, a[i]? = b[i]? := by
  rw [bitEq, beq_iff_eq]
  constructor
  · rintro rfl
    exact ⟨rfl, fun _ _ => rfl⟩
  · rintro ⟨hlen, hbits⟩
    exact List.ext_getElem?' fun i hi => hbits i (by omega)

/-- Settles O8. -/
theorem lengthAndEqualityOfBitVectors : Obligations.LengthAndEqualityOfBitVectors :=
  fun a b _ => ⟨rfl, _, rfl, bitEq_iff a b⟩

/-! `slice` (R117) -/

theorem bitSlice_outOfBounds {v : Bits} {b e : Nat} (h : e < b ∨ v.length < e) : bitSlice v b e = none :=
  if_neg (by omega)

theorem exec_bvSlice_some {v w : Bits} {b e : Nat} (h : bitSlice v b e = some w) (s : State) :
    exec (.bvSlice v b e) s = .next { s with bvResult := some (.bits w) } := by
  show execSlice v b e s = _
  rw [execSlice, h]; rfl

theorem exec_bvSlice_none {v : Bits} {b e : Nat} (h : bitSlice v b e = none) (s : State) :
    exec (.bvSlice v b e) s = .refused .sliceOutOfBounds := by
  show execSlice v b e s = _
  rw [execSlice, h]

/-- Settles O10: within bounds the slice is the first `e - b` bits of what stands from index `b` on. -/
theorem sliceIsHalfOpenOrRefused : Obligations.SliceIsHalfOpenOrRefused := by
  intro v b e s
  constructor
  · rintro ⟨hbe, hev⟩
    have hslice := bitSlice_eq hbe hev
    obtain ⟨-, -, -, hlen⟩ := bitSlice_some hslice
    refine ⟨_, exec_bvSlice_some hslice s, hlen, fun j hj => ?_⟩
    rw [List.getElem?_take_of_lt hj, List.getElem?_drop]
  · exact fun h => exec_bvSlice_none (bitSlice_outOfBounds h) s

end Sys2Proof.Proofs
end

section
/-! What the encoder gives and the block then asks of itself: every well-formed frame is read back
(spec/40_bitvector.md R118), and from a state that meets the invariant no step faults, asks for a NOP frame or runs
into a contract of the primitives inside a command (R121, spec/45_nop.md R220). -/

namespace Sys2Proof.Proofs

open Machine Laws

/-! Frames read back -/

theorem decodeFrame_nop {c : Config} (h : DistinctOpcodes c) (widths : Option (Nat × Nat)) :
    decodeFrame c widths (opcodeBits c.opNop) = .ok .nop := by
  rw [← List.append_nil (opcodeBits c.opNop), decodeFrame_opcodeBits]
  simp [decodeBody, BitVec.toNat_inj, h.size_nop.symm, h.read_nop.symm, h.write_nop.symm]

theorem wellFormed_writeFrame_iff {aw dw a : Nat} {ws : List Nat} :
    (Instr.writeFrame a ws).wellFormed aw dw = true ↔ a < 2 ^ aw ∧ 1 ≤ dw ∧ ws ≠ [] ∧ ∀ w ∈ ws, w < 2 ^ dw := by
  simp [Instr.wellFormed, and_assoc]

/-- Settles O1, frame by frame: the distinct opcodes select the layout, the layout gives the operands back. -/
theorem decodingAnEncodedFrameGivesItBack : Obligations.DecodingAnEncodedFrameGivesItBack := by
  intro c aw dw i hlegal hframe hwf
  have hops := legal_distinctOpcodes hlegal
  cases i with
  | nop => exact ⟨_, fromUnsigned_opcode _, decodeFrame_nop hops _⟩
  | size => exact ⟨_, encode_size _ _ _, decodeFrame_size _ _⟩
  | readFrame a =>
    have ha : a < 2 ^ aw := of_decide_eq_true hwf
    exact ⟨_, encode_readFrame ha c dw, decodeFrame_read hops ha dw⟩
  | writeFrame a ws =>
    obtain ⟨ha, hdw, hne, hws⟩ := wellFormed_writeFrame_iff.1 hwf
    exact ⟨_, encode_writeFrame ha hws c, decodeFrame_write hops ha hdw hne hws⟩
  | initCmd | sizeqCmd | readCmd | writeCmd => cases hframe
  | bvFromUnsigned | bvToUnsigned | bvLength | bvConcat | bvSlice | bvEq => cases hframe

/-! Answers that violate no contract -/

/-- The result is a next state, or a refusal for another reason than a NOP frame or a primitive's contract. -/
inductive Admitted : Result → Prop where
  | next (t : State) : Admitted (.next t)
  | refused (r : Refusal) (hnop : r ≠ .nopFrame) (hdomain : r ≠ .domainError) (hslice : r ≠ .sliceOutOfBounds) :
      Admitted (.refused r)

theorem admitted_iff (r : Result) : Admitted r ↔
    (∀ f, r ≠ .fault f) ∧ r ≠ .refused .nopFrame ∧ r ≠ .refused .domainError ∧
      r ≠ .refused .sliceOutOfBounds := by
  constructor
  · intro h
    cases h with
    | next t => exact ⟨nofun, nofun, nofun, nofun⟩
    | refused r hnop hdomain hslice =>
      exact ⟨nofun, fun h => hnop (by cases h; rfl), fun h => hdomain (by cases h; rfl),
        fun h => hslice (by cases h; rfl)⟩
  · rintro ⟨hfault, hnop, hdomain, hslice⟩
    cases r with
    | next t => exact .next t
    | fault f => exact absurd rfl (hfault f)
    | refused r =>
      exact .refused r (fun h => hnop (by rw [h])) (fun h => hdomain (by rw [h])) fun h => hslice (by rw [h])

/-- A primitive evaluated on its own runs into nothing but its own contract (R121). -/
theorem exec_primitive_ne (p : Primitive) (s : State) :
    (∀ f, exec p.toInstr s ≠ .fault f) ∧ exec p.toInstr s ≠ .refused .nopFrame := by
  cases p with
  | fromUnsigned v w =>
    cases hb : fromUnsigned v w with
    | some b => simp [Primitive.toInstr, exec_bvFromUnsigned_some hb]
    | none => simp [Primitive.toInstr, exec_bvFromUnsigned_none hb]
  | slice v b e =>
    cases hw : bitSlice v b e with
    | some w => simp [Primitive.toInstr, exec_bvSlice_some hw]
    | none => simp [Primitive.toInstr, exec_bvSlice_none hw]
  | toUnsigned | length | concat | eq => exact ⟨nofun, nofun⟩

/-! The end of `TX` -/

/-- A received frame runs where its last bit has been transmitted (R134). -/
theorem exec_frame_admitted {i : Instr} {s : State} (hi : i.isFrame = true) (hs : frameSent s = true) :
    Admitted (exec i s) := by
  cases i with
  | nop => rw [show exec .nop s = _ from if_pos hs]; exact .next _
  | size => rw [exec_size_sent hs]; exact .next _
  | readFrame a => rw [exec_readFrame_sent hs]; exact .next _
  | writeFrame a ws => rw [show exec (.writeFrame a ws) s = _ from if_pos hs]; exact .next _
  | initCmd | sizeqCmd | readCmd | writeCmd => cases hi
  | bvFromUnsigned | bvToUnsigned | bvLength | bvConcat | bvSlice | bvEq => cases hi

theorem receiveFrame_admitted {s : State} (hs : frameSent s = true) : Admitted (receiveFrame s) := by
  unfold receiveFrame
  split
  next i hd => exact exec_frame_admitted (decodeFrame_isFrame hd) hs
  next =>
    split
    next => rw [if_pos hs]; exact .next _
    next => exact .refused _ nofun nofun nofun

/-! The start of a sub-transfer -/

/-- A command of at least one word has a first sub-transfer in a legal configuration (R8, R231). -/
theorem plan_ne_nil {c : Config} (hc : c.legal = true) (a : Nat) {n : Nat} (hn : 1 ≤ n) :
    plan c.chunkWords a n ≠ [] := by
  simp only [Config.legal, Bool.and_eq_true, bne_iff_ne] at hc
  obtain ⟨-, hchunk⟩ := hc
  unfold plan
  split
  next => exact List.cons_ne_nil _ _
  next k hk =>
    have hpos : 0 < k := Nat.pos_of_ne_zero fun h => hchunk (h ▸ hk)
    split
    next => exact List.cons_ne_nil _ _
    next =>
      have hcount : 0 < chunkCount k n := Nat.div_pos (by omega) hpos
      simpa using hcount.ne'

theorem startsEncodable_mem {aw : Nat} {p : List (Nat × Nat)} {q : Nat × Nat}
    (h : startsEncodable aw p = true) (hq : q ∈ p) : q.1 < 2 ^ aw :=
  of_decide_eq_true (List.all_eq_true.1 h q hq)

section Start

variable {s : State} {p : List (Nat × Nat)} {n aw dw : Nat} {q : Nat × Nat}

/-- Every start address of a validated READ is encodable (R232). -/
theorem startRead_admitted (hops : DistinctOpcodes s.cfg) (hg : granted s = true)
    (hat : TransferAt s p n aw dw) (hq : q ∈ p) : Admitted (startRead aw dw q s) := by
  rw [startRead, encode_readFrame (startsEncodable_mem hat.starts hq)]
  show Admitted (xstart _ _ _ _ s)
  rw [xstart_opcodeBits hops.read_nop hg]
  exact .next _

/-- Every start address and every word of a validated WRITE is encodable (R203, R232). -/
theorem startWrite_admitted (hops : DistinctOpcodes s.cfg) (hg : granted s = true)
    (hat : TransferAt s p n aw dw) (hq : q ∈ p) : Admitted (startWrite aw dw q s) := by
  have hwords : ∀ w ∈ subWords q.2 s, w < 2 ^ dw :=
    fun w hw => hat.wq w (List.mem_of_mem_drop (List.mem_of_mem_take hw))
  rw [startWrite, encode_writeFrame (startsEncodable_mem hat.starts hq) hwords, List.append_assoc]
  show Admitted (xstart _ _ _ _ s)
  rw [xstart_opcodeBits hops.write_nop hg]
  exact .next _

end Start

/-! A granted command -/

theorem readInRange_iff {aw a n : Nat} : readInRange aw a n = true ↔ a < 2 ^ aw ∧ 1 ≤ n := by
  simp [readInRange]

/-- In Ready both widths have a value (R23), so that reading them is no fault. -/
theorem Ground.widths {s : State} (g : Ground s) (hr : isReady s = true) :
    ∃ aw dw, s.aw = some aw ∧ s.dw = some dw := by
  obtain ⟨aw, dw, ha, hd, -⟩ := (lifecycleOk_ready (by simpa [isReady] using hr)).1 g.lifecycle
  exact ⟨aw, dw, ha, hd⟩

section Granted

variable {s : State} (g : Ground s) (hg : granted s = true)
include g hg

theorem execInit_admitted : Admitted (execInit s) := by
  by_cases hl : s.lc = .uninitialized
  · rw [show execInit s = _ from exec_initCmd_starts (legal_distinctOpcodes g.legal) hg hl]
    exact .next _
  · rw [execInit, if_pos hg, if_neg hl]
    exact .refused _ nofun nofun nofun

theorem execSizeq_admitted : Admitted (execSizeq s) := by
  rw [execSizeq, if_pos hg]
  by_cases hr : isReady s = true
  · obtain ⟨aw, dw, ha, hd⟩ := g.widths hr
    simp only [if_pos hr, ha, hd]
    exact .next _
  · rw [if_neg hr]; exact .next _

theorem execRead_admitted (a n : Nat) : Admitted (execRead a n s) := by
  rw [execRead, if_pos hg]
  by_cases hr : isReady s = true
  · obtain ⟨aw, dw, ha, hd⟩ := g.widths hr
    simp only [if_pos hr, ha, hd]
    split
    next hv =>
      obtain ⟨hrange, -⟩ := Bool.and_eq_true_iff.1 hv
      obtain ⟨-, hn⟩ := readInRange_iff.1 hrange
      have hne := plan_ne_nil g.legal a hn
      split
      next q rest hplan =>
        exact startRead_admitted (legal_distinctOpcodes (by simpa using g.legal)) (by simpa using hg)
          (transferAt_read hr ha hd hv hne) (by simp [hplan])
      next hnil => exact absurd hnil hne
    next => exact .next _
  · rw [if_neg hr]; exact .next _

theorem execWrite_admitted (a : Nat) (ws : List WriteWord) : Admitted (execWrite a ws s) := by
  rw [execWrite, if_pos hg]
  by_cases hr : isReady s = true
  · obtain ⟨aw, dw, ha, hd⟩ := g.widths hr
    simp only [if_pos hr, ha, hd]
    split
    next hv =>
      obtain ⟨hrange, -⟩ := Bool.and_eq_true_iff.1 hv
      obtain ⟨-, hws, -⟩ := writeInRange_iff.1 hrange
      have hne := plan_ne_nil g.legal a (List.length_pos_iff.2 hws)
      split
      next q rest hplan =>
        exact startWrite_admitted (legal_distinctOpcodes (by simpa using g.legal)) (by simpa using hg)
          (transferAt_write hr ha hd hv hne) (by simp [hplan])
      next hnil => exact absurd hnil hne
    next => exact .next _
  · rw [if_neg hr]; exact .next _

theorem exec_command_admitted (c : Command) : Admitted (exec c.toInstr s) := by
  cases c with
  | initCmd => exact execInit_admitted g hg
  | sizeqCmd => exact execSizeq_admitted g hg
  | readCmd a n => exact execRead_admitted g hg a n
  | writeCmd a ws => exact execWrite_admitted g hg a ws

end Granted

/-! The command in progress goes on -/

/-- A READ or WRITE in progress stands at a sub-transfer of its plan (R231). -/
theorem TransferAt.current {s : State} {p : List (Nat × Nat)} {n aw dw : Nat} (h : TransferAt s p n aw dw) :
    ∃ q, p[s.cmd.ki]? = some q ∧ q ∈ p :=
  ⟨_, List.getElem?_eq_getElem h.index, List.getElem_mem _⟩

/-- The three commands that can be in progress, each as its registers say (R27). -/
theorem commandOk_cases {s : State} (h : commandOk s = true) :
    s.cmd.op = some .initCmd ∨
      ((s.cmd.op = some .readCmd ∨ s.cmd.op = some .writeCmd) ∧ ∃ p n aw dw, TransferAt s p n aw dw) := by
  cases hop : s.cmd.op with
  | none => simp [commandOk, hop] at h
  | some op =>
    cases op with
    | initCmd => exact .inl rfl
    | sizeqCmd => simp [commandOk, hop] at h
    | readCmd => exact .inr ⟨.inl rfl, ((commandOk_read hop).1 h).1⟩
    | writeCmd => exact .inr ⟨.inr rfl, ((commandOk_write hop).1 h).1⟩

theorem finishTransfer_admitted {s : State} {p : List (Nat × Nat)} {n aw dw : Nat}
    (h : TransferAt s p n aw dw) (r : Bool) : Admitted (finishTransfer r s) := by
  obtain ⟨q, hq, -⟩ := h.current
  simp only [finishTransfer, h.plan, hq]
  exact .next _

theorem collect_admitted {s : State} (h : commandOk s = true) (o : XchgOutcome) : Admitted (collect o s) := by
  cases o with
  | transportError => exact .next _
  | cancelled => exact .next _
  | ok r =>
    obtain hop | ⟨hop | hop, p, n, aw, dw, hat⟩ := commandOk_cases h
    · simp only [collect, hop]; exact .next _
    · simp only [collect, hop]; exact finishTransfer_admitted hat true
    · simp only [collect, hop]; exact finishTransfer_admitted hat false

theorem startCurrent_admitted {s : State} (hops : DistinctOpcodes s.cfg) (hg : granted s = true)
    (hc : commandOk s = true) (hop : s.cmd.op ≠ some .initCmd) : Admitted (startCurrent s) := by
  obtain hinit | ⟨hop, p, n, aw, dw, hat⟩ := commandOk_cases hc
  · exact absurd hinit hop
  · obtain ⟨q, hq, hmem⟩ := hat.current
    simp only [startCurrent, hat.plan, hat.addressWidth, hat.dataWidth, hq]
    obtain hop | hop := hop
    · simp only [hop]; exact startRead_admitted hops hg hat hmem
    · simp only [hop]; exact startWrite_admitted hops hg hat hmem

theorem betweenChunks_admitted {s : State} (hops : DistinctOpcodes s.cfg) (hg : granted s = true)
    (hc : commandOk s = true) (hop : s.cmd.op ≠ some .initCmd) (b : Bool) : Admitted (betweenChunks b s) := by
  have k : SameCommand s (emitProgress s) := ⟨rfl, rfl, rfl, rfl, rfl, rfl, rfl, rfl⟩
  cases b with
  | true => exact .next _
  | false => exact startCurrent_admitted (s := emitProgress s) hops hg (k.commandOk.trans hc) hop

/-! Every move -/

/-- An idle engine of a command in progress without an outcome stands between two chunks (R240). -/
theorem Stage.op_ne_init {s : State} (h : Stage s) (hi : s.eng.ph = .idle) (ho : s.eng.outcome = none) :
    s.cmd.op ≠ some .initCmd := by
  cases h with
  | between _ _ hop => exact hop
  | ended _ ho' | broken _ _ ho' => simp [ho] at ho'
  | running hp => exact absurd hi hp

theorem idleStep_admitted {s : State} (h : inv s = true) (hi : s.eng.ph = .idle) (x : Inputs) :
    Admitted (idleStep x s) := by
  obtain ⟨g, hcs⟩ := (inv_iff s).1 h
  unfold idleStep
  split
  next hb =>
    obtain ⟨hc, hstage⟩ := hcs hb
    split
    next o ho => exact collect_admitted hc o
    next ho =>
      exact betweenChunks_admitted (legal_distinctOpcodes g.legal) ((granted_iff s).2 ⟨hb, hi, ho⟩) hc
        (hstage.op_ne_init hi ho) _
  next hb =>
    obtain ⟨-, ho⟩ := g.exclusion.free (by simpa using hb)
    split
    next i c cmd hp =>
      exact exec_command_admitted (ground_grant g (pickPending_some hp).2) (granted_grant hi ho i c) cmd
    next => exact .next _

theorem blockStep_admitted {s : State} (h : inv s = true) (x : Inputs) : Admitted (blockStep x s) := by
  unfold blockStep
  split
  next hp =>
    split
    next => exact .next _
    next hlt =>
      have hsent := ((inv_iff s).1 h).1.sent
      exact receiveFrame_admitted ((frameSent_iff s).2 ⟨hp, by omega⟩)
  next => split <;> exact .next _
  next hi => exact idleStep_admitted h hi x

theorem breakExchange_admitted (o : XchgOutcome) (j : Nat) (s : State) : Admitted (breakExchange o j s) := by
  unfold breakExchange
  split
  next => exact .next _
  next =>
    split
    next => exact .refused _ nofun nofun nofun
    next => exact .next _

/-- Every move but the evaluation of a primitive. -/
theorem stepMove_admitted {m : Move} {s : State} (h : inv s = true) (hm : ∀ p, m ≠ .evaluate p) :
    Admitted (stepMove m s) := by
  cases m with
  | tick x => exact blockStep_admitted h x
  | call c cmd =>
    show Admitted (present c cmd s)
    unfold present
    split
    next => exact .refused _ nofun nofun nofun
    next => exact .next _
  | linkFail j => exact breakExchange_admitted _ j s
  | linkAbort j => exact breakExchange_admitted _ j s
  | reset =>
    show Admitted (resetBlock s)
    unfold resetBlock
    split
    next => exact .refused _ nofun nofun nofun
    next => exact .next _
  | silence => exact .next _
  | evaluate p => exact absurd rfl (hm p)

/-- Settles O54: an evaluation runs into nothing but the primitive's contract, every other move into none. -/
theorem contractViolationsAreUnreachable : Obligations.ContractViolationsAreUnreachable := by
  intro s hinv
  rw [step_eq]
  by_cases hm : ∃ p, (takeMove s).1 = .evaluate p
  · obtain ⟨p, hp⟩ := hm
    obtain ⟨hfault, hnop⟩ := exec_primitive_ne p (takeMove s).2
    rw [hp]
    exact ⟨hfault, hnop, fun hother => absurd rfl (hother p)⟩
  · have hother : ∀ p, (takeMove s).1 ≠ .evaluate p := fun p hp => hm ⟨p, hp⟩
    obtain ⟨hfault, hnop, hdomain, hslice⟩ :=
      (admitted_iff _).1 (stepMove_admitted (inv_takeMove hinv) hother)
    exact ⟨hfault, hnop, fun _ => ⟨hdomain, hslice⟩⟩

end Sys2Proof.Proofs
end

section
/-! A response as its bits come in (spec/41_exchange.md R135, R141, R142): the latency stage and the partitioner end
with the words of the whole-response cut (R143, R144), and keep nothing of the bits they drop. -/

namespace Sys2Proof.Proofs

open Machine Laws

/-! The whole-response cut -/

theorem partitionFrom_eq_dataWords {d : Bits} {wlen j m : Nat} (h : (j + m) * wlen ≤ d.length) :
    partitionFrom d wlen j m = some (dataWords wlen m (d.drop (j * wlen))) := by
  induction m generalizing j with
  | zero => rfl
  | succ m ih =>
    have hnext : (j + 1 + m) * wlen ≤ d.length := by rwa [Nat.add_right_comm, Nat.add_assoc]
    have hword : (j + 1) * wlen ≤ d.length := (Nat.mul_le_mul_right wlen (Nat.le_add_right _ m)).trans hnext
    have hsucc : (j + 1) * wlen = j * wlen + wlen := Nat.succ_mul j wlen
    rw [partitionFrom, bitSlice_eq (by omega) hword, ih hnext, dataWords, List.drop_drop, hsucc,
      Nat.add_sub_cancel_left]

/-- `words(r, skip, wlen, m)` cuts whole words off what follows the bits to drop (R143). -/
theorem responseWords_eq_dataWords {r : Bits} {skip wlen m : Nat} (h : skip + m * wlen ≤ r.length) :
    responseWords r skip wlen m = some (dataWords wlen m (r.drop skip)) := by
  have hstrip : strip r skip = some (r.drop skip) := by
    rw [strip, bitSlice_eq (by omega) (Nat.le_refl _), List.take_of_length_le (by simp)]
  have hcut : (0 + m) * wlen ≤ (r.drop skip).length := by rw [List.length_drop, Nat.zero_add]; omega
  rw [responseWords, hstrip]
  show partitionFrom (r.drop skip) wlen 0 m = _
  rw [partitionFrom_eq_dataWords hcut, Nat.zero_mul, List.drop_zero]

/-! Sampling a run of bits -/

/-- RXBIT for each bit of `r` in turn (R135), as the statements write it. -/
def sampleBits (r : Bits) (e : Engine) : Engine := r.foldl (fun e b => sampleBit b e) e

@[simp] theorem sampleBits_nil (e : Engine) : sampleBits [] e = e := rfl
@[simp] theorem sampleBits_cons (b : Bool) (r : Bits) (e : Engine) :
    sampleBits (b :: r) e = sampleBits r (sampleBit b e) := rfl

theorem sampleBits_counts (r : Bits) (e : Engine) :
    (sampleBits r e).ph = e.ph ∧ (sampleBits r e).rxbuf = e.rxbuf ++ r ∧
      (sampleBits r e).rxn = e.rxn - r.length := by
  induction r generalizing e with
  | nil => simp
  | cons b r ih =>
    obtain ⟨hph, hbuf, hrxn⟩ := ih (sampleBit b e)
    obtain ⟨hph', -⟩ := sampleBit_frame b e
    obtain ⟨hbuf', hrxn', -⟩ := sampleBit_counts b e
    refine ⟨hph.trans hph', ?_, ?_⟩
    · rw [sampleBits_cons, hbuf, hbuf', List.append_assoc, List.singleton_append]
    · rw [sampleBits_cons, hrxn, hrxn', List.length_cons]; omega

theorem ExchangeAt.sampleBits {f : Option Bits} {n skip wlen : Nat} {e : Engine}
    (h : ExchangeAt f n skip wlen e) (hp : e.ph = .rx) {r : Bits} (hr : r.length ≤ e.rxn) :
    ExchangeAt f n skip wlen (sampleBits r e) := by
  induction r generalizing e with
  | nil => exact h
  | cons b r ih =>
    rw [List.length_cons] at hr
    obtain ⟨hph, -⟩ := sampleBit_frame b e
    obtain ⟨-, hrxn, -⟩ := sampleBit_counts b e
    rw [sampleBits_cons]
    exact ih (h.sampleBit hp (by omega) b) (hph.trans hp) (by omega)

/-! What the stream stages read -/

/-- The latency stage and the partitioner of `e` and `e'` hold the same. -/
structure SameStream (e e' : Engine) : Prop where
  skip : e.skip = e'.skip
  wlen : e.wlen = e'.wlen
  wacc : e.wacc = e'.wacc
  xq : e.xq = e'.xq

/-- A dropped bit may differ, a bit passed on may not (R141). -/
theorem SameStream.sampleBit {e e' : Engine} (h : SameStream e e') {b b' : Bool} (hb : e.skip = 0 → b = b') :
    SameStream (sampleBit b e) (sampleBit b' e') := by
  obtain ⟨hskip, hwlen, hwacc, hxq⟩ := h
  by_cases hdrop : 0 < e.skip
  · rw [sampleBit_dropped hdrop, sampleBit_dropped (hskip ▸ hdrop)]
    exact ⟨by simp [hskip], hwlen, hwacc, hxq⟩
  · have hzero : e.skip = 0 := by omega
    obtain rfl := hb hzero
    by_cases hfull : e.wlen = some (e.wacc.length + 1)
    · rw [sampleBit_completes hzero hfull, sampleBit_completes (hskip ▸ hzero) (hwlen ▸ hwacc ▸ hfull)]
      exact ⟨hskip, hwlen, rfl, by simp [hxq, hwacc]⟩
    · rw [sampleBit_gathers hzero hfull, sampleBit_gathers (hskip ▸ hzero) (hwlen ▸ hwacc ▸ hfull)]
      exact ⟨hskip, hwlen, by simp [hwacc], hxq⟩

theorem SameStream.sampleBits {e e' : Engine} (h : SameStream e e') {r r' : Bits} (hl : r.length = r'.length)
    (hd : r.drop e.skip = r'.drop e.skip) : SameStream (sampleBits r e) (sampleBits r' e') := by
  induction r generalizing e e' r' with
  | nil => rw [List.length_eq_zero_iff.1 hl.symm]; exact h
  | cons b r ih =>
    obtain ⟨b', r', rfl⟩ := List.exists_cons_of_length_eq_add_one hl.symm
    obtain ⟨-, -, hskip⟩ := sampleBit_counts b e
    rw [sampleBits_cons, sampleBits_cons]
    cases hs : e.skip with
    | zero =>
      rw [hs, List.drop_zero, List.drop_zero] at hd
      cases hd
      exact ih (h.sampleBit fun _ => rfl) rfl rfl
    | succ k =>
      rw [hs, List.drop_succ_cons, List.drop_succ_cons] at hd
      refine ih (h.sampleBit fun h0 => by omega) (Nat.succ.inj hl) ?_
      rwa [hskip, hs, Nat.add_sub_cancel]

/-! The obligations -/

/-- Once all bits are sampled, nothing is left to drop or in assembly and the words are those of the cut. -/
theorem ExchangeAt.responseWords {f : Option Bits} {n m skip wlen : Nat} {e : Engine}
    (h : ExchangeAt f n skip wlen e) (hlen : n = m * wlen + skip) (hn : e.rxn = 0) :
    Machine.responseWords e.rxbuf skip wlen m = some e.xq ∧ e.skip = 0 ∧ e.wacc = [] := by
  subst hlen
  have hcount := h.count
  have hskipped := h.skipped
  have hwords := h.words_length hn
  have hstream := congrArg List.length h.stream
  rw [List.length_append, flatMap_natToBits_length, List.length_drop, hwords] at hstream
  refine ⟨?_, by omega, List.length_eq_zero_iff.1 (by omega)⟩
  rw [responseWords_eq_dataWords (by omega), ← h.stream, ← hwords, dataWords_flatMap_append h.fits]

/-- `e` with `n` bits still to sample. -/
def awaiting (n : Nat) (e : Engine) : Engine := { e with ph := .rx, rxn := n }

/-- The stages read neither the phase nor the count of bits to come. -/
theorem sameStream_awaiting (n : Nat) (e : Engine) : SameStream e (awaiting n e) := ⟨rfl, rfl, rfl, rfl⟩

theorem exchangeAt_awaiting {e : Engine} {wlen n : Nat} (hpos : 1 ≤ wlen) (hwlen : e.wlen = some wlen)
    (hwacc : e.wacc = []) (hxq : e.xq = []) (hbuf : e.rxbuf = []) (hn : 0 < n) :
    ExchangeAt (some e.txbuf) n e.skip wlen (awaiting n e) where
  frame := rfl
  count := by simp [awaiting, hbuf]
  skipped := by simp [awaiting, hbuf]
  word := hwlen
  inWord := by rw [show (awaiting n e).wacc = [] from hwacc]; exact hpos
  fits := by simp [awaiting, hxq]
  stream := by simp [awaiting, hxq, hwacc, hbuf]
  silent := nofun
  asked _ := hn

/-- Settles O14: the stages end as those of an exchange in `RX` do; a response of no bits leaves them as they are. -/
theorem partitionerAgreesWithTheWholeResponse : Obligations.PartitionerAgreesWithTheWholeResponse := by
  rintro e _ wlen m r hpos rfl hwlen hwacc hxq hbuf hlen
  show Machine.responseWords r e.skip wlen m = some (sampleBits r e).xq ∧ (sampleBits r e).skip = 0 ∧
    (sampleBits r e).wacc = [] ∧ (sampleBits r e).rxbuf = r
  obtain ⟨-, hsampled, -⟩ := sampleBits_counts r e
  rw [hbuf, List.nil_append] at hsampled
  rw [Nat.add_comm] at hlen
  obtain hnone | hsome := Nat.eq_zero_or_pos r.length
  · obtain ⟨hbits, hskip⟩ : m * wlen = 0 ∧ e.skip = 0 := Nat.add_eq_zero_iff.1 (hlen.symm.trans hnone)
    obtain rfl : m = 0 := (Nat.mul_eq_zero.1 hbits).resolve_right (by omega)
    obtain rfl := List.length_eq_zero_iff.1 hnone
    rw [responseWords_eq_dataWords (by simp [hskip]), sampleBits_nil, hxq]
    exact ⟨rfl, hskip, hwacc, hbuf⟩
  · have hend := (exchangeAt_awaiting hpos hwlen hwacc hxq hbuf hsome).sampleBits rfl (Nat.le_refl r.length)
    obtain ⟨-, hbuf', hrxn⟩ := sampleBits_counts r (awaiting r.length e)
    obtain ⟨hskip, -, hacc, hwords⟩ := (sameStream_awaiting r.length e).sampleBits (r := r) rfl rfl
    obtain ⟨hcut, hskip0, hacc0⟩ := hend.responseWords hlen (hrxn.trans (Nat.sub_self _))
    rw [hbuf', show (awaiting _ e).rxbuf = [] from hbuf, List.nil_append, ← hwords] at hcut
    exact ⟨hcut, hskip.trans hskip0, hacc.trans hacc0, hsampled⟩

/-- Settles O15: the two responses agree wherever a bit is passed on, so the stages hold the same after each bit. -/
theorem droppedBitsLeaveNoTrace : Obligations.DroppedBitsLeaveNoTrace := by
  intro e r r' hl hd
  have hsame : SameStream e e := ⟨rfl, rfl, rfl, rfl⟩
  obtain ⟨hskip, -, hwacc, hxq⟩ := hsame.sampleBits hl hd
  exact ⟨hxq, hwacc, hskip⟩

end Sys2Proof.Proofs
end

section
/-! The steps of an exchange, one by one (spec/41_exchange.md R133 to R139, R147): what each step of the block does
to a state in which it is enabled, and runs of them. -/

namespace Sys2Proof.Proofs

open Machine Laws

/-! One step of the block -/

theorem step_txBit {s : State} (hp : s.eng.ph = .tx) (ht : s.eng.txi < s.eng.txbuf.length) (x : Inputs)
    (rest : List Move) : step (withScript s (.tick x :: rest)) = .next (withScript (txBitStep s) rest) := by
  rw [step_cons]
  simp only [stepMove, blockStep, withScript_eng, hp, ht, if_true]
  rfl

theorem step_rxBit {s : State} (hp : s.eng.ph = .rx) (hn : 0 < s.eng.rxn) (x : Inputs) (rest : List Move) :
    step (withScript s (.tick x :: rest)) = .next (withScript (rxBitStep x.rxBit s) rest) := by
  rw [step_cons]
  simp only [stepMove, blockStep, withScript_eng, hp, hn, if_true]
  rfl

/-- With no bit committed the environment's bit is sampled, and nothing but the engine changes (R146). -/
theorem rxBitStep_uncommitted {s : State} (h : s.env.answer = []) (b : Bool) :
    rxBitStep b s = { s with eng := sampleBit b s.eng } := by
  have henv : ({ s.env with answer := s.env.answer.tail } : Environment) = s.env := by rw [h, List.tail_nil, ← h]
  rw [rxBitStep, henv, h]
  rfl

/-- The block acts on the outcome of its exchange (R130). -/
theorem step_collect {s : State} (hb : s.busy = true) (hi : s.eng.ph = .idle) {o : XchgOutcome}
    (ho : s.eng.outcome = some o) (x : Inputs) (rest : List Move) :
    step (withScript s (.tick x :: rest)) = collect o (withScript s rest) := by
  rw [step_cons]
  simp only [stepMove, blockStep, idleStep, withScript_eng, withScript_busy, hb, hi, ho, if_true]

/-! Runs of bits -/

/-- Settles O12, by induction on the steps: each is TXBIT (R133). -/
theorem transmissionIsInIndexOrder : Obligations.TransmissionIsInIndexOrder := by
  intro s xs rest hp hne hlen
  induction xs generalizing s with
  | nil => exact absurd rfl hne
  | cons x xs ih =>
    rw [List.length_cons] at hlen
    have hstep := step_txBit hp (by omega) x (xs.map .tick ++ rest)
    rw [List.length_cons, List.map_cons, List.cons_append, runFor_succ_next hstep]
    cases xs with
    | nil => rfl
    | cons y ys =>
      rw [ih (txBitStep s) hp (List.cons_ne_nil _ _) (by show s.eng.txi + 1 + _ ≤ s.eng.txbuf.length; omega)]
      simp only [txBitStep, List.length_cons, Nat.add_assoc, Nat.add_comm 1]

/-- Steps of `RX` with no bit committed sample the environment's bits one after the other (R135, R146). -/
theorem runFor_rxBits {s : State} (hp : s.eng.ph = .rx) (ha : s.env.answer = []) {xs : List Inputs}
    (hlen : xs.length ≤ s.eng.rxn) (rest : List Move) :
    runFor xs.length (withScript s (xs.map .tick ++ rest)) =
      .next (withScript { s with eng := sampleBits (xs.map (·.rxBit)) s.eng } rest) := by
  induction xs generalizing s with
  | nil => rfl
  | cons x xs ih =>
    rw [List.length_cons] at hlen
    have hstep := step_rxBit hp (by omega) x (xs.map .tick ++ rest)
    rw [rxBitStep_uncommitted ha] at hstep
    obtain ⟨hph, -⟩ := sampleBit_frame x.rxBit s.eng
    obtain ⟨-, hrxn, -⟩ := sampleBit_counts x.rxBit s.eng
    rw [List.length_cons, List.map_cons, List.cons_append, runFor_succ_next hstep]
    exact ih (s := { s with eng := sampleBit x.rxBit s.eng }) (hph.trans hp) ha
      (by show _ ≤ (sampleBit x.rxBit s.eng).rxn; omega)

/-- Settles O13: the engine after the run is the one that sampled the environment's bits. -/
theorem receptionSamplesTheRequestedBits : Obligations.ReceptionSamplesTheRequestedBits := by
  intro s xs rest hp ha hlen
  obtain ⟨hph, hbuf, hrxn⟩ := sampleBits_counts (xs.map (·.rxBit)) s.eng
  exact ⟨_, runFor_rxBits hp ha hlen rest, rfl, hph.trans hp, hbuf, by rw [hrxn, List.length_map]⟩

/-! Failure, abort and silence of the link -/

/-- A failure or an abort during an exchange ends it (R138, R139). -/
theorem breakExchange_running {o : XchgOutcome} {j : Nat} {s : State} {p : Peer} (hp : s.eng.ph ≠ .idle)
    (hcut : peerCut s.cfg s.eng j s.env.peer = some p) (rest : List Move) :
    breakExchange o j (withScript s rest) = .next (withScript
      (exchangeEnded { s with eng := discard s.eng, env := { s.env with peer := p, answer := [] } } o) rest) := by
  simp only [breakExchange, withScript_eng, withScript_cfg, withScript_env, hp, hcut, if_false]
  rfl

theorem breakExchange_idle {o : XchgOutcome} {j : Nat} {s : State} (hi : s.eng.ph = .idle) :
    breakExchange o j s = .next s :=
  if_pos hi

/-- A command that fails where the engine is idle returns at once (R262); its exchange's outcome is used up. -/
theorem raiseFailure_idle {k : Status} {s : State} (hi : s.eng.ph = .idle) (rest : List Move) :
    raiseFailure k (withScript s rest) = withScript
      (returnedAtOnce { s with eng := { s.eng with outcome := none } } s.cmd k .nothing) rest := by
  have heng : ({ s.eng with ph := .idle, outcome := none } : Engine) = { s.eng with outcome := none } := by
    rw [← hi]
  rw [raiseFailure, release, withScript_eng, heng]
  rfl

/-- Settles O16: the two link events, and the step in which the command takes a failure over as its status. -/
theorem linkEventsEndTheExchangeOrAreAbsent : Obligations.LinkEventsEndTheExchangeOrAreAbsent := by
  intro s j rest
  refine ⟨fun hpeer => by rw [hpeer]; rfl, fun p hp hcut => ?_, fun hi => ?_,
    fun x hb hi => ⟨fun ho => ?_, fun ho => ?_⟩⟩
  · exact ⟨breakExchange_running hp hcut rest, breakExchange_running hp hcut rest⟩
  · exact ⟨breakExchange_idle (s := withScript s rest) hi, breakExchange_idle (s := withScript s rest) hi⟩
  · rw [step_collect hb hi ho, ← raiseFailure_idle hi]; rfl
  · rw [step_collect hb hi ho, ← raiseFailure_idle hi]; rfl

/-- Settles O17, by induction on the number of moves. -/
theorem aSilentLinkChangesNothing : Obligations.ASilentLinkChangesNothing := by
  intro s k rest
  induction k with
  | zero => rfl
  | succ k ih =>
    have hstep : step (withScript s (.silence :: (List.replicate k .silence ++ rest))) =
      .next (withScript s (List.replicate k .silence ++ rest)) := rfl
    rw [List.replicate_succ, List.cons_append, runFor_succ_next hstep, ih]

/-! The end of `TX` -/

/-- Settles O50: the step receives the frame, and receiving it runs what it decodes to. -/
theorem aStepRunsTheFrameItReceives : Obligations.AStepRunsTheFrameItReceives := by
  intro s x i rest hp hsent hd
  have hd : decodeFrame (withScript s rest).cfg (frameWidths (withScript s rest)) (withScript s rest).eng.txbuf
    = .ok i := hd
  rw [step_cons]
  show blockStep x (withScript s rest) = _
  rw [blockStep_receive (s := withScript s rest) hp hsent.not_lt, receiveFrame, hd]

end Sys2Proof.Proofs
end

section
/-! The exchanges of a command at the call level (spec/41_exchange.md R148, spec/60_exceptions.md R253, R256): one
loop over the plan for READ and one for WRITE, each of which does the exchange of one sub-transfer after the
other and ends after any of them. -/

namespace Sys2Proof.Proofs

open Machine Laws

/-! INITIALIZE -/

/-- Whatever the answer, INITIALIZE returns after its one exchange (R161). -/
theorem callInit_events {c : Config} {answer : LinkAnswer} {res : CallResult}
    (h : callInit c .uninitialized answer = .returns res) :
    res.events = [.xchg (opcodeBits c.opSize) c.sizeRespBits, .xchgEnd (sendRcv c.sizeRespBits answer)] := by
  simp only [callInit, fromUnsigned_opcode, if_true] at h
  split at h
  next ho => cases h; rw [ho]
  next ho => cases h; rw [ho]
  next r ho =>
    split at h
    next => split at h <;> (cases h; rw [ho])
    next => cases h

/-! A transfer over its plan -/

/-- The exchanges `xs` are those of the first sub-transfers of `p`, and the transfer ends with `st`: `OK` after the
whole plan, a failure that validation does not raise before that. `frame` gives each sub-transfer's frame and
response bits. -/
inductive Performs (frame : Nat × Nat → Option (Bits × Nat)) :
    List (Nat × Nat) → List (Bits × Nat) → Status → Prop
  | done : Performs frame [] [] .ok
  | stops (p : List (Nat × Nat)) {st : Status} (hok : st ≠ .ok) (hrange : st ≠ .outOfRange) :
      Performs frame p [] st
  | exchanges {q : Nat × Nat} {p : List (Nat × Nat)} {x : Bits × Nat} {xs : List (Bits × Nat)} {st : Status}
      (hx : frame q = some x) (h : Performs frame p xs st) : Performs frame (q :: p) (x :: xs) st

section Performs

variable {frame : Nat × Nat → Option (Bits × Nat)} {p : List (Nat × Nat)} {xs : List (Bits × Nat)} {st : Status}

theorem Performs.length_le (h : Performs frame p xs st) : xs.length ≤ p.length := by
  induction h with
  | done => exact Nat.le_refl _
  | stops p => exact Nat.zero_le _
  | exchanges _ _ ih => exact Nat.succ_le_succ ih

theorem Performs.length_eq (h : Performs frame p xs st) (hok : st = .ok) : xs.length = p.length := by
  induction h with
  | done => rfl
  | stops p hne => exact absurd hok hne
  | exchanges _ _ ih => exact congrArg Nat.succ (ih hok)

theorem Performs.ne_outOfRange (h : Performs frame p xs st) : st ≠ .outOfRange := by
  induction h with
  | done => exact nofun
  | stops p _ hrange => exact hrange
  | exchanges _ _ ih => exact ih

theorem Performs.frames (h : Performs frame p xs st) : xs.map some = (p.take xs.length).map frame := by
  induction h with
  | done => rfl
  | stops p => rfl
  | exchanges hx _ ih => rw [List.map_cons, List.length_cons, List.take_succ_cons, List.map_cons, hx, ih]

end Performs

/-- A call that goes through the exchanges of a transfer, or none because its operands are out of range, starts
those of the first sub-transfers of its plan. -/
theorem exchanges_of_transfer {frame : Nat × Nat → Option (Bits × Nat)} {p : List (Nat × Nat)} {res : CallResult}
    (h : Performs frame p (exchangesOf res.events) res.status ∨ (res.status = .outOfRange ∧ res.events = [])) :
    exchangeCount res.events ≤ p.length ∧
    (res.status = .ok → exchangeCount res.events = p.length) ∧
    (res.status = .outOfRange → exchangeCount res.events = 0) ∧
    (exchangesOf res.events).map some = (p.take (exchangeCount res.events)).map frame := by
  rw [exchangeCount_eq]
  obtain h | ⟨hst, hev⟩ := h
  · exact ⟨h.length_le, h.length_eq, fun hst => absurd hst h.ne_outOfRange, h.frames⟩
  · rw [hst, hev]
    exact ⟨Nat.zero_le _, nofun, fun _ => rfl, rfl⟩

/-! READ -/

/-- The frame and the response bits of a READ sub-transfer (R185, R187). -/
def readExchange (c : Config) (aw dw : Nat) (q : Nat × Nat) : Option (Bits × Nat) :=
  (encode c aw dw (.readFrame q.1)).map fun f => (f, (q.2 + 1) * dw)

/-- A between-chunks point starts no exchange (R240, R243). -/
theorem exchangesOf_chunkPoint (first : Bool) (done : Nat) (e : SubEnv) :
    exchangesOf (chunkPoint first done e).1 = [] := by
  cases first <;> rfl

/-- One exchange among the events. -/
theorem exchangesOf_exchange (before point : List Event) (hpoint : exchangesOf point = []) (p : Bits) (n : Nat)
    (o : XchgOutcome) :
    exchangesOf (before ++ point ++ [.xchg p n, .xchgEnd o]) = exchangesOf before ++ [(p, n)] := by
  rw [exchangesOf_append, exchangesOf_append, hpoint, List.append_nil]
  rfl

theorem readLoop_performs {c : Config} {aw dw : Nat} {first : Bool} {p : List (Nat × Nat)} {envs : List SubEnv}
    {rq : List Nat} {before : List Event} {res : CallResult}
    (h : readLoop c aw dw first p envs rq before = .returns res) :
    ∃ xs, exchangesOf res.events = exchangesOf before ++ xs ∧ Performs (readExchange c aw dw) p xs res.status := by
  induction p generalizing first envs rq before with
  | nil => cases h; exact ⟨[], (List.append_nil _).symm, .done⟩
  | cons q p ih =>
    cases envs with
    | nil => cases h
    | cons e envs =>
      have hpoint := exchangesOf_chunkPoint first rq.length e
      simp only [readLoop] at h
      split at h
      next => cases h; exact ⟨[], by rw [exchangesOf_append, hpoint], .stops _ nofun nofun⟩
      next =>
        split at h
        next => cases h
        next f hf =>
          have hone (o : XchgOutcome) := exchangesOf_exchange before _ hpoint f ((q.2 + 1) * dw) o
          have hx : readExchange c aw dw q = some (f, (q.2 + 1) * dw) := by rw [readExchange, hf]; rfl
          split at h
          next => cases h; exact ⟨_, hone _, .exchanges hx (.stops _ nofun nofun)⟩
          next => cases h; exact ⟨_, hone _, .exchanges hx (.stops _ nofun nofun)⟩
          next =>
            split at h
            next => cases h
            next =>
              obtain ⟨xs, hxs, hp⟩ := ih h
              exact ⟨_ :: xs, by rw [hxs, hone, List.append_assoc, List.singleton_append], .exchanges hx hp⟩

theorem callRead_exchanges {c : Config} {aw dw a n : Nat} {envs : List SubEnv} {res : CallResult}
    (h : callRead c aw dw a n envs = .returns res) :
    Performs (readExchange c aw dw) (plan c.chunkWords a n) (exchangesOf res.events) res.status ∨
      (res.status = .outOfRange ∧ res.events = []) := by
  unfold callRead at h
  split at h
  next =>
    obtain ⟨xs, hxs, hp⟩ := readLoop_performs h
    rw [hxs]
    exact .inl hp
  next => cases h; exact .inr ⟨rfl, rfl⟩

/-! WRITE -/

/-- Each sub-transfer of `p` starts where the one before it ends, the first at `a` (R231). -/
def Consecutive : Nat → List (Nat × Nat) → Prop
  | _, [] => True
  | a, q :: p => q.1 = a ∧ Consecutive (a + q.2) p

/-- Sub-transfer `k` of a command that is cut (R231): all but the last have `c` words. -/
def chunkAt (a n c k : Nat) : Nat × Nat :=
  (a + k * c, if k + 1 < chunkCount c n then c else n - (chunkCount c n - 1) * c)

theorem consecutive_chunks {a n c j m : Nat} (hm : j + m = chunkCount c n) :
    Consecutive (a + j * c) ((List.range' j m).map (chunkAt a n c)) := by
  induction m generalizing j with
  | zero => trivial
  | succ m ih =>
    refine ⟨rfl, ?_⟩
    cases m with
    | zero => trivial
    | succ m =>
      have hfull : (chunkAt a n c j).2 = c := if_pos (by omega)
      have hrest := ih (j := j + 1) (by omega)
      rw [hfull, Nat.add_assoc, ← Nat.succ_mul]
      exact hrest

theorem plan_consecutive (chunkWords : Option Nat) (a n : Nat) : Consecutive a (plan chunkWords a n) := by
  unfold plan
  split
  next => exact ⟨rfl, trivial⟩
  next c =>
    split
    next => exact ⟨rfl, trivial⟩
    next =>
      have hall := consecutive_chunks (a := a) (Nat.zero_add (chunkCount c n))
      rwa [Nat.zero_mul, Nat.add_zero, ← List.range_eq_range'] at hall

/-- The frame and the response bits of a WRITE sub-transfer of the words `ws` from address `a` on (R205, R206). -/
def writeExchange (c : Config) (aw dw a : Nat) (ws : List Nat) (q : Nat × Nat) : Option (Bits × Nat) :=
  (encode c aw dw (.writeFrame q.1 ((ws.drop (q.1 - a)).take q.2))).map fun f => (f, 0)

/-- The loop has sent the first `k` of the words `ws`. -/
theorem writeLoop_performs {c : Config} {aw dw a k total : Nat} {first : Bool} {ws : List Nat}
    {p : List (Nat × Nat)} {envs : List SubEnv} {before : List Event} {res : CallResult}
    (hp : Consecutive (a + k) p) (h : writeLoop c aw dw first total p envs (ws.drop k) before = .returns res) :
    ∃ xs, exchangesOf res.events = exchangesOf before ++ xs ∧
      Performs (writeExchange c aw dw a ws) p xs res.status := by
  induction p generalizing first k envs before with
  | nil => cases h; exact ⟨[], (List.append_nil _).symm, .done⟩
  | cons q p ih =>
    obtain ⟨hstart, hrest⟩ := hp
    cases envs with
    | nil => cases h
    | cons e envs =>
      have hpoint := exchangesOf_chunkPoint first (total - (ws.drop k).length) e
      simp only [writeLoop] at h
      split at h
      next => cases h; exact ⟨[], by rw [exchangesOf_append, hpoint], .stops _ nofun nofun⟩
      next =>
        split at h
        next => cases h
        next f hf =>
          have hone (o : XchgOutcome) := exchangesOf_exchange before _ hpoint f 0 o
          have hx : writeExchange c aw dw a ws q = some (f, 0) := by
            rw [writeExchange, hstart, Nat.add_sub_cancel_left, ← hstart, hf]; rfl
          split at h
          next => cases h; exact ⟨_, hone _, .exchanges hx (.stops _ nofun nofun)⟩
          next => cases h; exact ⟨_, hone _, .exchanges hx (.stops _ nofun nofun)⟩
          next =>
            rw [List.drop_drop] at h
            obtain ⟨xs, hxs, hp⟩ := ih (by rwa [← Nat.add_assoc]) h
            exact ⟨_ :: xs, by rw [hxs, hone, List.append_assoc, List.singleton_append], .exchanges hx hp⟩

theorem callWrite_exchanges {c : Config} {aw dw a : Nat} {ws : List WriteWord} {envs : List SubEnv}
    {res : CallResult} (h : callWrite c aw dw a ws envs = .returns res) :
    Performs (writeExchange c aw dw a (ws.map wordValue)) (plan c.chunkWords a ws.length)
        (exchangesOf res.events) res.status ∨
      (res.status = .outOfRange ∧ res.events = []) := by
  unfold callWrite at h
  split at h
  next =>
    obtain ⟨xs, hxs, hp⟩ := writeLoop_performs (a := a) (k := 0) (plan_consecutive _ _ _) h
    rw [hxs]
    exact .inl hp
  next => cases h; exact .inr ⟨rfl, rfl⟩

/-- Settles O45: INITIALIZE has one exchange; a READ or WRITE performs its plan, or is out of range. -/
theorem exactlyTheNamedExchangesHappen : Obligations.ExactlyTheNamedExchangesHappen := by
  intro c aw dw a n ws answer envs res
  refine ⟨fun h => ?_, fun h => exchanges_of_transfer (callRead_exchanges h),
    fun h => exchanges_of_transfer (callWrite_exchanges h)⟩
  rw [callInit_events h]
  exact ⟨rfl, rfl⟩

end Sys2Proof.Proofs
end

section
/-! One command and one exchange at a time (spec/41_exchange.md R131, spec/60_exceptions.md R270, R272): what each
step adds to the history follows on from the owner and the phase before it and leads to those after it. -/

namespace Sys2Proof.Proofs

open Machine Laws

theorem historyOk_iff (s : State) :
    historyOk s = true ↔ scanHistory s.history = some (s.owner, s.eng.ph != .idle) := beq_iff_eq

theorem scanHistory_append (h : List Event) (e : Event) :
    scanHistory (h ++ [e]) = (scanHistory h).bind fun x => scanEvent x e := by
  simp [scanHistory]

/-- A step that records nothing keeps owner and phase as far as the history tells them. -/
theorem historyOk_silent {s t : State} (h : historyOk s = true) (hh : t.history = s.history)
    (ho : t.owner = s.owner) (hp : (t.eng.ph != .idle) = (s.eng.ph != .idle)) : historyOk t = true := by
  rw [historyOk_iff] at h ⊢
  rw [hh, ho, hp, h]

/-- A step that records one event changes owner and phase as that event says. -/
theorem historyOk_event {s t : State} {e : Event} (h : historyOk s = true) (hh : t.history = s.history ++ [e])
    (he : scanEvent (s.owner, s.eng.ph != .idle) e = some (t.owner, t.eng.ph != .idle)) : historyOk t = true := by
  rw [historyOk_iff] at h ⊢
  rw [hh, scanHistory_append, h, Option.bind_some, he]

/-! The shared operations, each where the command that does it holds the exclusion -/

section Operations

variable {s : State} {c : Caller} (h : historyOk s = true) (hi : s.eng.ph = .idle)
include h

theorem historyOk_call (c : Caller) (cmd : Command) (p : List (Caller × Command)) :
    historyOk (record (.call c cmd) { s with pending := p }) = true :=
  historyOk_event h rfl rfl

theorem historyOk_endExchange (ho : s.owner = some c) (hp : s.eng.ph ≠ .idle) (o : XchgOutcome) :
    historyOk (endExchange o s) = true := by
  have hopen : (s.eng.ph != .idle) = true := by simpa using hp
  exact historyOk_event h rfl (by rw [endExchange_owner, ho, hopen]; rfl)

include hi

theorem historyOk_grant (ho : s.owner = none) (i : Nat) (c : Caller) : historyOk (grant i c s) = true :=
  historyOk_event h rfl (by simp [scanEvent, ho, hi])

variable (ho : s.owner = some c)
include ho

theorem historyOk_release (st : Status) (d : RetData) : historyOk (release st d s) = true :=
  historyOk_event h rfl (by simp [scanEvent, ho, hi])

theorem historyOk_loadExchange (p : Bits) (n k : Nat) (w : Option Nat) :
    historyOk (loadExchange p n k w s) = true :=
  historyOk_event h rfl (by simp [scanEvent, ho, hi])

theorem historyOk_emitProgress : historyOk (emitProgress s) = true :=
  historyOk_event h rfl (by simp [scanEvent, ho, hi])

end Operations

/-- Nothing but history, owner and phase matters to the history: the latch writes none of them. -/
theorem historyOk_latch {s : State} (h : historyOk s = true) (c : Command) : historyOk (latch c s) = true :=
  historyOk_silent h (by simp) (by simp) (by simp)

/-! A command: its first exchange, the next one, its return -/

section Command

variable {s t : State} {c : Caller} (h : historyOk s = true) (ho : s.owner = some c)
include h ho

theorem historyOk_startSize (hs : startSize s = .next t) : historyOk t = true := by
  obtain ⟨hg, rfl⟩ := startSize_next hs
  obtain ⟨-, hi, -⟩ := (granted_iff s).1 hg
  exact historyOk_loadExchange h hi ho _ _ _ _

theorem historyOk_startRead {aw dw : Nat} {q : Nat × Nat} (hs : startRead aw dw q s = .next t) :
    historyOk t = true := by
  obtain ⟨hg, f, -, rfl⟩ := startRead_next hs
  obtain ⟨-, hi, -⟩ := (granted_iff s).1 hg
  exact historyOk_loadExchange h hi ho _ _ _ _

theorem historyOk_startWrite {aw dw : Nat} {q : Nat × Nat} (hs : startWrite aw dw q s = .next t) :
    historyOk t = true := by
  obtain ⟨hg, f, -, rfl⟩ := startWrite_next hs
  obtain ⟨-, hi, -⟩ := (granted_iff s).1 hg
  exact historyOk_loadExchange h hi ho _ _ _ _

/-- A granted command returns, or its exchange starts. -/
theorem historyOk_exec_command {cmd : Command} (hg : granted s = true) (hs : exec cmd.toInstr s = .next t) :
    historyOk t = true := by
  obtain ⟨-, hi, -⟩ := (granted_iff s).1 hg
  have hl := historyOk_latch h cmd
  have hlo : (latch cmd s).owner = some c := by simpa using ho
  have hret (st : Status) (d : RetData) : historyOk (release st d (latch cmd s)) = true :=
    historyOk_release hl (by simpa using hi) hlo st d
  cases cmd with
  | initCmd =>
    obtain ⟨-, -, hs⟩ := execInit_next hs
    exact historyOk_startSize hl hlo hs
  | sizeqCmd =>
    obtain ⟨-, ⟨-, rfl⟩ | ⟨-, aw, dw, -, -, rfl⟩⟩ := execSizeq_next hs
    · exact hret _ _
    · exact hret _ _
  | readCmd a n =>
    obtain ⟨-, ⟨-, rfl⟩ | ⟨-, aw, dw, -, -, ⟨-, rfl⟩ | ⟨-, q, rest, -, hs⟩⟩⟩ := execRead_next hs
    · exact hret _ _
    · exact hret _ _
    · exact historyOk_startRead (s := beginTransfer (latch (.readCmd a n) s)) hl hlo hs
  | writeCmd a ws =>
    obtain ⟨-, ⟨-, rfl⟩ | ⟨-, aw, dw, -, -, ⟨-, rfl⟩ | ⟨-, q, rest, -, hs⟩⟩⟩ := execWrite_next hs
    · exact hret _ _
    · exact hret _ _
    · exact historyOk_startWrite (s := beginTransfer (latch (.writeCmd a ws) s)) hl hlo hs

variable (hi : s.eng.ph = .idle)
include hi

theorem historyOk_finishInit : historyOk (finishInit s) = true := by
  obtain ⟨aw, dw, -, -, he⟩ | ⟨aw, dw, -, -, -, he⟩ | ⟨-, he⟩ := finishInit_cases s
  all_goals rw [he]; exact historyOk_release h hi ho _ _

theorem historyOk_finishTransfer {r : Bool} (hs : finishTransfer r s = .next t) : historyOk t = true := by
  obtain ⟨p, q, -, -, rfl⟩ := finishTransfer_next hs
  obtain ⟨-, he⟩ | ⟨d, he⟩ := finishSub_cases p.length q.2 (if r then s.eng.xq else []) r s
  · rw [he]; exact historyOk_silent h rfl rfl rfl
  · rw [he]; exact historyOk_release h hi ho _ _

theorem historyOk_collect {o : XchgOutcome} (hs : collect o s = .next t) : historyOk t = true := by
  obtain ⟨-, rfl⟩ | ⟨-, rfl⟩ | ⟨r, -, -, rfl⟩ | ⟨r, -, -, hs⟩ | ⟨r, -, -, hs⟩ := collect_next hs
  · exact historyOk_release h hi ho _ _
  · exact historyOk_release h hi ho _ _
  · exact historyOk_finishInit h ho hi
  · exact historyOk_finishTransfer h ho hi hs
  · exact historyOk_finishTransfer h ho hi hs

theorem historyOk_betweenChunks {b : Bool} (hs : betweenChunks b s = .next t) : historyOk t = true := by
  have hp := historyOk_emitProgress h hi ho
  obtain ⟨-, rfl⟩ | ⟨-, hs⟩ := betweenChunks_next hs
  · exact historyOk_release (s := emitProgress s) hp hi ho _ _
  · obtain ⟨p, aw, dw, q, -, -, -, -, ⟨-, hs⟩ | ⟨-, hs⟩⟩ := startCurrent_next hs
    · exact historyOk_startRead (s := emitProgress s) hp ho hs
    · exact historyOk_startWrite (s := emitProgress s) hp ho hs

end Command

/-! The exchange -/

section Exchange

variable {s t : State} {c : Caller} (h : historyOk s = true) (ho : s.owner = some c)
include h ho

theorem historyOk_endTx (hp : s.eng.ph = .tx) (ans : List (Option Bool)) : historyOk (endTx ans s) = true := by
  by_cases hn : 0 < s.eng.rxn
  · rw [endTx_sampling hn]; exact historyOk_silent h rfl rfl (by rw [hp]; rfl)
  · rw [endTx_done (by omega)]; exact historyOk_endExchange h ho (by simp [hp]) _

theorem historyOk_receiveFrame (hs : receiveFrame s = .next t) : historyOk t = true := by
  obtain ⟨hsent, ans, p, -, rfl⟩ := receiveFrame_endTx hs
  exact historyOk_endTx (s := { s with env := { s.env with peer := p } }) h ho ((frameSent_iff s).1 hsent).1 ans

end Exchange

/-! Every move: the invariant tells who holds the exclusion -/

theorem Exclusion.owner_of_busy {s : State} (hx : Exclusion s) (hb : s.busy = true) : ∃ c, s.owner = some c :=
  Option.isSome_iff_exists.1 (hx.owned ▸ hb)

theorem Exclusion.owner_of_free {s : State} (hx : Exclusion s) (hb : s.busy = false) : s.owner = none := by
  have hnone := hx.owned
  rw [hb] at hnone
  simpa using hnone.symm

section Moves

variable {s t : State} (hx : Exclusion s) (h : historyOk s = true)
include hx h

theorem historyOk_idleStep {x : Inputs} (hi : s.eng.ph = .idle) (hs : idleStep x s = .next t) :
    historyOk t = true := by
  obtain ⟨hb, o, -, hs⟩ | ⟨hb, -, hs⟩ | ⟨hb, i, c, cmd, -, hs⟩ | ⟨-, -, rfl⟩ := idleStep_next hs
  · obtain ⟨c, ho⟩ := hx.owner_of_busy hb
    exact historyOk_collect h ho hi hs
  · obtain ⟨c, ho⟩ := hx.owner_of_busy hb
    exact historyOk_betweenChunks h ho hi hs
  · exact historyOk_exec_command (historyOk_grant h hi (hx.owner_of_free hb) i c) rfl
      (granted_grant hi (hx.free hb).2 i c) hs
  · exact h

theorem historyOk_blockStep {x : Inputs} (hs : blockStep x s = .next t) : historyOk t = true := by
  have howner (hp : s.eng.ph ≠ .idle) := hx.owner_of_busy (hx.busy_of_running hp)
  obtain ⟨-, -, rfl⟩ | ⟨hp, -, hs⟩ | ⟨-, -, rfl⟩ | ⟨hp, -, rfl⟩ | ⟨hi, hs⟩ := blockStep_next hs
  · exact historyOk_silent h rfl rfl rfl
  · obtain ⟨c, ho⟩ := howner (by simp [hp])
    exact historyOk_receiveFrame h ho hs
  · obtain ⟨hph, -⟩ := sampleBit_frame (responseBit x.rxBit s.env.answer) s.eng
    exact historyOk_silent h rfl rfl (by rw [rxBitStep_eng, hph])
  · obtain ⟨c, ho⟩ := howner (by simp [hp])
    exact historyOk_endExchange h ho (by simp [hp]) _
  · exact historyOk_idleStep hx h hi hs

theorem historyOk_breakExchange {o : XchgOutcome} {j : Nat} (hs : breakExchange o j s = .next t) :
    historyOk t = true := by
  obtain ⟨-, rfl⟩ | ⟨hp, p, -, rfl⟩ := breakExchange_next hs
  · exact h
  · obtain ⟨c, ho⟩ := hx.owner_of_busy (hx.busy_of_running hp)
    exact historyOk_endExchange h ho hp o

theorem historyOk_stepMove {m : Move} (hs : stepMove m s = .next t) : historyOk t = true := by
  cases m with
  | tick x => exact historyOk_blockStep hx h hs
  | call c cmd => obtain ⟨-, rfl⟩ := present_next hs; exact historyOk_call h c cmd _
  | linkFail j => exact historyOk_breakExchange hx h hs
  | linkAbort j => exact historyOk_breakExchange hx h hs
  | reset =>
    obtain ⟨hb, -, rfl⟩ := resetBlock_next hs
    obtain ⟨hi, -⟩ := hx.free hb
    exact historyOk_silent h rfl (hx.owner_of_free hb).symm (by rw [hi]; rfl)
  | silence => cases hs; exact h
  | evaluate p => obtain ⟨v, rfl⟩ := exec_primitive_next hs; exact h

end Moves

/-- Settles O49: every move keeps the history in order; taking the move changes neither history nor owner. -/
theorem theHistoryServesOneCommandAtATime : Obligations.TheHistoryServesOneCommandAtATime := by
  intro s t hinv h hstep
  have hx := ((inv_iff _).1 (inv_takeMove hinv)).1.exclusion
  obtain ⟨script, draws, hu⟩ := takeMove_frame s
  rw [step_eq] at hstep
  exact historyOk_stepMove hx (by rw [hu]; exact h) hstep

end Sys2Proof.Proofs
end

section
/-! Exchanges with the oracle peer (spec/41_exchange.md R130, R137 to R139, R146): whatever the transport answers at
the call level, the moves that give this answer take the bit-step machine from the start of the exchange to its end
with the outcome of `send_rcv`, and nothing but the exchange has happened. -/

namespace Sys2Proof.Proofs

open Machine Laws

/-! Runs of given moves -/

/-- The moves `ms` lead from `s` to `t`, whatever moves follow. -/
def MovesLeadTo (ms : List Move) (s t : State) : Prop :=
  ∀ rest, runFor ms.length (withScript s (ms ++ rest)) = .next (withScript t rest)

namespace MovesLeadTo

variable {s t u : State} {ms ns : List Move} {m : Move}

theorem single (h : ∀ rest, step (withScript s (m :: rest)) = .next (withScript t rest)) : MovesLeadTo [m] s t :=
  fun rest => runFor_succ_next (h rest) 0

theorem append (h : MovesLeadTo ms s t) (k : MovesLeadTo ns t u) : MovesLeadTo (ms ++ ns) s u := by
  intro rest
  rw [List.length_append, List.append_assoc, runFor_add (h (ns ++ rest)), k rest]

end MovesLeadTo

/-! The moves of an exchange -/

/-- `exchangeMoves` up to the end of the exchange: all but the step in which the command acts on the outcome. -/
def linkMoves (frameBits n : Nat) (answer : LinkAnswer) : List Move :=
  match sendRcv n answer with
  | .ok r =>
    List.replicate frameBits (.tick {}) ++
      ([.tick {}] ++ if 0 < n then r.map (fun b => .tick { rxBit := b }) ++ [.tick {}] else [])
  | .transportError => [.linkFail 0]
  | .cancelled => [.linkAbort 0]

theorem exchangeMoves_eq (frameBits n : Nat) (answer : LinkAnswer) :
    exchangeMoves frameBits n answer = linkMoves frameBits n answer ++ [.tick {}] := by
  cases h : sendRcv n answer with
  | ok r => simp [exchangeMoves, linkMoves, h, List.replicate_succ']
  | transportError | cancelled => simp [exchangeMoves, linkMoves, h]

/-- An `Ok` outcome has all the bits requested (R137). -/
theorem sendRcv_ok_length {n : Nat} {answer : LinkAnswer} {r : Bits} (h : sendRcv n answer = .ok r) :
    r.length = n := by
  cases answer with
  | bits b =>
    simp only [sendRcv] at h
    split at h
    next hb => cases h; exact hb
    next => cases h
  | linkFail | linkAbort => cases h

/-! The end of `TX` -/

theorem endTx_receiving {s : State} (h : 0 < s.eng.rxn) (ans : List (Option Bool)) : endTx ans s = receiving s ans :=
  endTx_sampling h ans

theorem endTx_exchangeEnded {s : State} (h : s.eng.rxn = 0) (ans : List (Option Bool)) :
    endTx ans s = exchangeEnded s (.ok []) :=
  endTx_done h ans

/-- Whatever frame the oracle peer receives, it commits to no answer and keeps no memory (R146). -/
theorem receiveFrame_oracle {s : State} (hp : s.env.peer = .oracle) (hs : frameSent s = true) :
    receiveFrame s = .next (endTx [] s) := by
  have hsame : ({ s with env := { s.env with peer := .oracle } } : State) = s := by rw [← hp]
  cases hd : decodeFrame s.cfg (frameWidths s) s.eng.txbuf with
  | error e => simp [receiveFrame, hd, hp, hs]
  | ok i =>
    have hframe := decodeFrame_isFrame hd
    simp only [receiveFrame, hd]
    cases i with
    | nop => exact if_pos hs
    | size => rw [exec_size_sent hs, hp]; rfl
    | readFrame a => rw [exec_readFrame_sent hs, hp]; rfl
    | writeFrame a ws =>
      have hrun : exec (.writeFrame a ws) s =
        .next (endTx [] { s with env := { s.env with peer := peerWrite a ws s.env.peer } }) := if_pos hs
      rw [hrun, hp, peerWrite, hsame]
    | initCmd | sizeqCmd | readCmd | writeCmd => cases hframe
    | bvFromUnsigned | bvToUnsigned | bvLength | bvConcat | bvSlice | bvEq => cases hframe

/-! From the start of an exchange to its end -/

/-- The exchange that the command of `s` has started ended with outcome `o`, recorded as R18 says and `Ok` with the
words of the whole-response cut (R143); all that outlives the exchange is as in `s`. -/
structure Exchanged (s : State) (p : Bits) (n skip wlen : Nat) (o : XchgOutcome) (t : State) : Prop where
  same : SameCommand s t
  peer : t.env.peer = s.env.peer
  bvResult : t.bvResult = s.bvResult
  history : t.history = s.history ++ [.xchg p n, .xchgEnd o]
  phase : t.eng.ph = .idle
  outcome : t.eng.outcome = some o
  words : ∀ r m, o = .ok r → n = m * wlen + skip → responseWords r skip wlen m = some t.eng.xq

/-- `s` with the exchange started and its frame transmitted (R133). -/
def transmitted (p : Bits) (n skip wlen : Nat) (s : State) : State :=
  let t := loadExchange p n skip (some wlen) s
  { t with eng := { t.eng with txi := p.length }, ports := { t.ports with txBit := p[p.length - 1]? } }

section Oracle

variable {s : State} {p : Bits} {n skip wlen : Nat}

theorem loadExchange_transmits (hp : p ≠ []) :
    MovesLeadTo (.replicate p.length (.tick {})) (loadExchange p n skip (some wlen) s)
      (transmitted p n skip wlen s) := by
  intro rest
  have hne : List.replicate p.length ({} : Inputs) ≠ [] := by simpa using hp
  have hrun := transmissionIsInIndexOrder (loadExchange p n skip (some wlen) s) (.replicate p.length {}) rest rfl
    hne (by simp)
  simpa [transmitted, List.map_replicate] using hrun

theorem transmitted_receives (hpeer : s.env.peer = .oracle) :
    MovesLeadTo [.tick {}] (transmitted p n skip wlen s) (endTx [] (transmitted p n skip wlen s)) := by
  refine .single fun rest => ?_
  have hsent : frameSent (transmitted p n skip wlen s) = true := (frameSent_iff _).2 ⟨rfl, rfl⟩
  rw [step_cons, ← endTx_withScript]
  show blockStep {} (withScript (transmitted p n skip wlen s) rest) = _
  rw [blockStep_receive (s := withScript (transmitted p n skip wlen s) rest) rfl (Nat.lt_irrefl p.length)]
  exact receiveFrame_oracle hpeer hsent

/-- The bits of the answer are sampled and the exchange ends with them (R135, R136). -/
theorem receiving_samples {r : Bits} (hp : s.eng.ph = .rx) (ha : s.env.answer = []) (hr : r.length = s.eng.rxn) :
    MovesLeadTo (r.map (fun b => .tick { rxBit := b }) ++ [.tick {}]) s
      (endRx { s with eng := sampleBits r s.eng }) := by
  obtain ⟨hph, -, hrxn⟩ := sampleBits_counts r s.eng
  have hdone : (sampleBits r s.eng).rxn = 0 := by omega
  refine .append (t := { s with eng := sampleBits r s.eng }) (fun rest => ?_) (.single fun rest => ?_)
  · have hrun := runFor_rxBits (xs := r.map fun b => { rxBit := b }) hp ha (by simp [hr]) rest
    simpa [Function.comp_def] using hrun
  · rw [step_cons]
    simp only [stepMove, blockStep, withScript_eng, hph, hp, hdone]
    rfl

/-- With no bit requested the exchange ends with the frame (R134). -/
theorem exchange_unanswered (hpeer : s.env.peer = .oracle) (hp : p ≠ []) (hw : 0 < wlen) :
    ∃ t, MovesLeadTo (.replicate p.length (.tick {}) ++ [.tick {}]) (loadExchange p 0 skip (some wlen) s) t ∧
      Exchanged s p 0 skip wlen (.ok []) t := by
  have hreceived := transmitted_receives (p := p) (n := 0) (skip := skip) (wlen := wlen) hpeer
  rw [endTx_exchangeEnded (s := transmitted p 0 skip wlen s) rfl] at hreceived
  refine ⟨_, (loadExchange_transmits hp).append hreceived, ⟨rfl, rfl, rfl, rfl, rfl, rfl, rfl, rfl⟩, rfl, rfl,
    List.append_assoc _ _ _, rfl, rfl, fun r m ho hm => ?_⟩
  cases ho
  obtain ⟨hcut, -⟩ := (exchangeAt_loaded p 0 skip hw).responseWords hm rfl
  exact hcut

/-- A response of the right length is sampled, and the exchange ends with it. -/
theorem exchange_sampled {r : Bits} (hpeer : s.env.peer = .oracle) (hp : p ≠ []) (hw : 0 < wlen)
    (hr : r.length = n) (hn : 0 < n) :
    ∃ t, MovesLeadTo (.replicate p.length (.tick {}) ++
        ([.tick {}] ++ (r.map (fun b => .tick { rxBit := b }) ++ [.tick {}])))
        (loadExchange p n skip (some wlen) s) t ∧ Exchanged s p n skip wlen (.ok r) t := by
  have hreceived := transmitted_receives (p := p) (n := n) (skip := skip) (wlen := wlen) hpeer
  rw [endTx_receiving (s := transmitted p n skip wlen s) hn] at hreceived
  have hrx : ExchangeAt (some p) n skip wlen (receiving (transmitted p n skip wlen s) []).eng :=
    (exchangeAt_loaded p n skip hw).moved nofun fun _ => hn
  obtain ⟨-, hbuf, hrxn⟩ := sampleBits_counts r (receiving (transmitted p n skip wlen s) []).eng
  have hbuf : (sampleBits r (receiving (transmitted p n skip wlen s) []).eng).rxbuf = r := hbuf
  have hdone : (sampleBits r (receiving (transmitted p n skip wlen s) []).eng).rxn = 0 := by
    rw [hrxn, hr]; exact Nat.sub_self n
  have hsampled := receiving_samples (s := receiving (transmitted p n skip wlen s) []) rfl rfl hr
  rw [endRx, hbuf] at hsampled
  refine ⟨_, (loadExchange_transmits hp).append (hreceived.append hsampled),
    ⟨rfl, rfl, rfl, rfl, rfl, rfl, rfl, rfl⟩, rfl, rfl, List.append_assoc _ _ _, rfl, rfl, fun r' m ho hm => ?_⟩
  cases ho
  obtain ⟨hcut, -⟩ := (hrx.sampleBits rfl hr.le).responseWords hm hdone
  rwa [hbuf] at hcut

/-- A failure or an abort before the first bit makes the exchange end with it (R138, R139). -/
theorem exchange_breaks {m : Move} {o : XchgOutcome} (hpeer : s.env.peer = .oracle)
    (hm : ∀ t, stepMove m t = breakExchange o 0 t) (ho : ∀ r, o ≠ .ok r) :
    ∃ t, MovesLeadTo [m] (loadExchange p n skip (some wlen) s) t ∧ Exchanged s p n skip wlen o t := by
  have hcut : peerCut s.cfg (loadExchange p n skip (some wlen) s).eng 0 s.env.peer = some s.env.peer := by
    rw [hpeer]; rfl
  have hbroken rest := breakExchange_running (o := o) (s := loadExchange p n skip (some wlen) s) nofun hcut rest
  exact ⟨_, .single fun rest => (hm _).trans (hbroken rest), ⟨rfl, rfl, rfl, rfl, rfl, rfl, rfl, rfl⟩, rfl, rfl,
    List.append_assoc _ _ _, rfl, rfl, fun r _ hr => absurd hr (ho r)⟩

/-- Every answer of the transport ends the exchange with the outcome of `send_rcv` (R130, R137). -/
theorem exchange_oracle (hpeer : s.env.peer = .oracle) (hp : p ≠ []) (hw : 0 < wlen) (answer : LinkAnswer) :
    ∃ t, MovesLeadTo (linkMoves p.length n answer) (loadExchange p n skip (some wlen) s) t ∧
      Exchanged s p n skip wlen (sendRcv n answer) t := by
  cases ho : sendRcv n answer with
  | ok r =>
    have hr := sendRcv_ok_length ho
    simp only [linkMoves, ho]
    by_cases hn : 0 < n
    · rw [if_pos hn]
      exact exchange_sampled hpeer hp hw hr hn
    · obtain rfl : n = 0 := by omega
      obtain rfl := List.length_eq_zero_iff.1 hr
      exact exchange_unanswered hpeer hp hw
  | transportError =>
    simp only [linkMoves, ho]
    exact exchange_breaks hpeer (fun _ => rfl) fun _ h => nomatch h
  | cancelled =>
    simp only [linkMoves, ho]
    exact exchange_breaks hpeer (fun _ => rfl) fun _ h => nomatch h

end Oracle

/-- The step after the exchange is the command's (R130). -/
theorem Exchanged.collects {s t u : State} {p : Bits} {n skip wlen : Nat} {o : XchgOutcome}
    (h : Exchanged s p n skip wlen o t) (hb : s.busy = true)
    (hu : ∀ rest, collect o (withScript t rest) = .next (withScript u rest)) : MovesLeadTo [.tick {}] t u :=
  .single fun rest => (step_collect (h.same.busy.trans hb) h.phase h.outcome {} rest).trans (hu rest)

end Sys2Proof.Proofs
end

section
/-! Width discovery (spec/42_size_initialize.md): INITIALIZE and its SIZE exchange, at the call level and run bit by
bit, and SIZEQ. -/

namespace Sys2Proof.Proofs

open Machine Laws

/-! INITIALIZE at the call level (R161) -/

/-- How INITIALIZE returns from its one exchange with outcome `o`. -/
def initResult (c : Config) (o : XchgOutcome) (lc : Lifecycle) (widths : Option (Nat × Nat)) (st : Status) :
    CallResult :=
  ⟨lc, widths, st, .nothing, [.xchg (opcodeBits c.opSize) c.sizeRespBits, .xchgEnd o]⟩

section CallLevel

variable {c : Config} {answer : LinkAnswer}

/-- A failed exchange is passed on and the block stays Uninitialized (R164). -/
theorem callInit_transportError (h : sendRcv c.sizeRespBits answer = .transportError) :
    callInit c .uninitialized answer =
      .returns (initResult c .transportError .uninitialized none .transportError) := by
  simp [callInit, fromUnsigned_opcode, h, initResult]

theorem callInit_cancelled (h : sendRcv c.sizeRespBits answer = .cancelled) :
    callInit c .uninitialized answer = .returns (initResult c .cancelled .uninitialized none .cancelled) := by
  simp [callInit, fromUnsigned_opcode, h, initResult]

/-- A field of 0 is a `ConfigurationError` (R167). -/
theorem callInit_dead {r : Bits} {aw dw : Nat} (h : sendRcv c.sizeRespBits answer = .ok r)
    (hw : responseWords r 1 c.fieldBits 2 = some [aw, dw]) (hz : aw = 0 ∨ dw = 0) :
    callInit c .uninitialized answer = .returns (initResult c (.ok r) .dead none .configurationError) := by
  simp [callInit, fromUnsigned_opcode, h, hw, hz, initResult]

/-- Two fields of at least 1 are the widths (R166). -/
theorem callInit_ready {r : Bits} {aw dw : Nat} (h : sendRcv c.sizeRespBits answer = .ok r)
    (hw : responseWords r 1 c.fieldBits 2 = some [aw, dw]) (hz : ¬(aw = 0 ∨ dw = 0)) :
    callInit c .uninitialized answer = .returns (initResult c (.ok r) .ready (some (aw, dw)) .ok) := by
  simp [callInit, fromUnsigned_opcode, h, hw, hz, initResult]

end CallLevel

/-- Cutting a skip bit and two encoded fields gives the fields back (R165). -/
theorem responseWords_fields (b : Bool) {aw dw w : Nat} (ha : aw < 2 ^ w) (hd : dw < 2 ^ w) :
    responseWords (b :: (natToBits aw w ++ natToBits dw w)) 1 w 2 = some [aw, dw] := by
  have hwords := dataWords_flatMap_append (dw := w) (ws := [aw, dw]) (by simp [ha, hd]) []
  rw [responseWords_eq_dataWords (by simp; omega)]
  simpa using hwords

/-- A response that holds two words is cut into two (R143). -/
theorem responseWords_pair {r : Bits} {skip wlen : Nat} (h : skip + 2 * wlen ≤ r.length) :
    ∃ a d, responseWords r skip wlen 2 = some [a, d] :=
  ⟨_, _, responseWords_eq_dataWords h⟩

/-- Settles O26: the cut gives the two fields back, and INITIALIZE decides on them. -/
theorem widthFieldsDecideReadyOrDead : Obligations.WidthFieldsDecideReadyOrDead := by
  intro c b aw dw hlegal ha hd
  have hwords := responseWords_fields b ha hd
  have hlen : (b :: (natToBits aw c.fieldBits ++ natToBits dw c.fieldBits)).length = c.sizeRespBits := by
    rw [legal_sizeRespBits hlegal]; simp; omega
  have hok : sendRcv c.sizeRespBits (.bits (b :: (natToBits aw c.fieldBits ++ natToBits dw c.fieldBits))) = .ok _ :=
    if_pos hlen
  by_cases hz : aw = 0 ∨ dw = 0
  · simp only [if_pos hz]
    exact ⟨_, callInit_dead hok hwords hz⟩
  · simp only [if_neg hz]
    exact ⟨_, callInit_ready hok hwords hz⟩

/-! INITIALIZE run bit by bit -/

/-- INITIALIZE with a field of 0: Dead (R167). -/
theorem collect_initCmd_dead {s : State} {aw dw : Nat} (hop : s.cmd.op = some .initCmd) (h : s.eng.xq = [aw, dw])
    (hz : aw = 0 ∨ dw = 0) (r : Bits) :
    collect (.ok r) s = .next (raiseFailure .configurationError
      { s with lc := .dead, cmd := { s.cmd with rq := [aw, dw] } }) := by
  simp only [collect, hop, finishInit, h, if_pos hz]

section Returned

variable {s t : State} {p : Bits} {n skip wlen : Nat} {o : XchgOutcome} {c : Caller}
  (h : Exchanged s p n skip wlen o t) (howner : s.owner = some c)
include h howner

/-- A return after one exchange that leaves the widths as they were. -/
theorem Exchanged.returnedAs_sameWidths (lc : Lifecycle) (regs : CommandRegs) (st : Status) (d : RetData) :
    returnedAs s c ⟨lc, none, st, d, [.xchg p n, .xchgEnd o]⟩ (release st d { t with lc := lc, cmd := regs }) := by
  have ho : t.owner = some c := h.same.owner.trans howner
  exact ⟨rfl, ⟨h.same.aw, h.same.dw⟩, rfl, by simp [ho], by simp [ho, h.history], rfl, rfl, rfl, rfl, h.same.cfg,
    h.same.pending, h.peer, h.bvResult⟩

/-- A failure of the exchange becomes the status (R164). -/
theorem Exchanged.returnedAs_failed (k : Status) :
    returnedAs s c ⟨s.lc, none, k, .nothing, [.xchg p n, .xchgEnd o]⟩ (raiseFailure k t) := by
  rw [← h.same.lc]
  exact h.returnedAs_sameWidths howner t.lc t.cmd k .nothing

/-- A return after one exchange that sets the widths. -/
theorem Exchanged.returnedAs_newWidths (lc : Lifecycle) (aw dw : Nat) (regs : CommandRegs) (st : Status)
    (d : RetData) :
    returnedAs s c ⟨lc, some (aw, dw), st, d, [.xchg p n, .xchgEnd o]⟩
      (release st d { t with lc := lc, aw := some aw, dw := some dw, cmd := regs }) := by
  have ho : t.owner = some c := h.same.owner.trans howner
  exact ⟨rfl, ⟨rfl, rfl⟩, rfl, by simp [ho], by simp [ho, h.history], rfl, rfl, rfl, rfl, h.same.cfg,
    h.same.pending, h.peer, h.bvResult⟩

end Returned

/-- Whatever the outcome of its exchange, INITIALIZE acts on it as the call-level rule does (R164 to R167). -/
theorem Exchanged.init_returns {s t : State} {c : Caller} {answer : LinkAnswer} (hlegal : s.cfg.legal = true)
    (hb : s.busy = true) (howner : s.owner = some c) (hl : s.lc = .uninitialized)
    (hop : s.cmd.op = some .initCmd)
    (h : Exchanged s (opcodeBits s.cfg.opSize) s.cfg.sizeRespBits 1 s.cfg.fieldBits
      (sendRcv s.cfg.sizeRespBits answer) t) :
    ∃ res u, callInit s.cfg .uninitialized answer = .returns res ∧ MovesLeadTo [.tick {}] t u ∧
      returnedAs s c res u := by
  have hop : t.cmd.op = some .initCmd := h.same.cmd ▸ hop
  cases ho : sendRcv s.cfg.sizeRespBits answer with
  | transportError =>
    rw [ho] at h
    have hret := h.returnedAs_failed howner .transportError
    rw [hl] at hret
    exact ⟨_, _, callInit_transportError ho, h.collects hb fun _ => rfl, hret⟩
  | cancelled =>
    rw [ho] at h
    have hret := h.returnedAs_failed howner .cancelled
    rw [hl] at hret
    exact ⟨_, _, callInit_cancelled ho, h.collects hb fun _ => rfl, hret⟩
  | ok r =>
    rw [ho] at h
    have hbits := legal_sizeRespBits hlegal
    have hr := sendRcv_ok_length ho
    obtain ⟨aw, dw, hcut⟩ := responseWords_pair (r := r) (skip := 1) (wlen := s.cfg.fieldBits) (by omega)
    have hxq : t.eng.xq = [aw, dw] := Option.some.inj ((h.words r 2 rfl hbits).symm.trans hcut)
    by_cases hz : aw = 0 ∨ dw = 0
    · have hret := h.returnedAs_sameWidths howner .dead { t.cmd with rq := [aw, dw] } .configurationError .nothing
      refine ⟨_, _, callInit_dead ho hcut hz, ?_, hret⟩
      exact h.collects hb fun rest => collect_initCmd_dead (s := withScript t rest) hop hxq hz r
    · have hret := h.returnedAs_newWidths howner .ready aw dw { t.cmd with rq := [aw, dw] } .ok .nothing
      refine ⟨_, _, callInit_ready ho hcut hz, ?_, hret⟩
      exact h.collects hb fun rest => collect_initCmd (s := withScript t rest) hop hxq (by omega) (by omega) r

/-- Settles O25: the exchange ends with the outcome of `send_rcv`, and INITIALIZE acts on it. -/
theorem initializeRunsAsTheCallLevelRuleSays : Obligations.InitializeRunsAsTheCallLevelRuleSays := by
  intro s c answer rest hlegal hg howner hl hpeer
  obtain ⟨hb, -⟩ := (granted_iff s).1 hg
  obtain ⟨t, hexchange, hended⟩ := exchange_oracle (s := latch .initCmd s) (p := opcodeBits s.cfg.opSize)
    (n := s.cfg.sizeRespBits) (skip := 1) hpeer (by rw [← List.length_pos_iff]; simp) (fieldBits_pos hlegal) answer
  obtain ⟨res, u, hcall, hreturn, hret⟩ :=
    Exchanged.init_returns (s := latch .initCmd s) hlegal hb howner hl rfl hended
  rw [opcodeBits_length] at hexchange
  refine ⟨_, res, withScript u rest, exec_initCmd_starts (legal_distinctOpcodes hlegal) hg hl, hcall, ?_, hret, rfl⟩
  rw [exchangeMoves_eq]
  exact hexchange.append hreturn rest

/-! The single steps -/

/-- Settles O18: the end of `TX` with the answer of either peer to a SIZE frame. -/
theorem aSizeFrameAsksForTheWidths : Obligations.ASizeFrameAsksForTheWidths := by
  intro s hs
  rw [exec_size_sent hs]
  refine ⟨fun hn hp => ?_, fun paw pdw m hn hp => ?_, fun hn => ?_⟩
  · rw [endTx_receiving hn, hp]; rfl
  · rw [endTx_receiving hn, hp]; rfl
  · rw [endTx_exchangeEnded hn]

/-- Settles O24: the latch and the loaded exchange, or the refusal. -/
theorem initializeStartsTheSizeExchangeOrIsRefused : Obligations.InitializeStartsTheSizeExchangeOrIsRefused := by
  intro s hlegal hg
  refine ⟨exec_initCmd_starts (legal_distinctOpcodes hlegal) hg, fun hl => ?_⟩
  show execInit s = _
  rw [execInit, if_pos hg, if_neg hl]

/-- A command that returns in its granting step finds the engine idle and leaves it so (R272). -/
theorem release_granted {s : State} (hg : granted s = true) (st : Status) (d : RetData) :
    release st d s = returnedAtOnce s s.cmd st d := by
  obtain ⟨-, hi, ho⟩ := (granted_iff s).1 hg
  have heng : ({ s.eng with ph := .idle, outcome := none } : Engine) = s.eng := by rw [← hi, ← ho]
  rw [release, heng]
  rfl

/-- Settles O28: the stored pair is returned in the granting step. -/
theorem sizeqReturnsTheStoredWidths : Obligations.SizeqReturnsTheStoredWidths := by
  intro s aw dw hg hl haw hdw
  have hr : isReady s = true := by simp [isReady, hl]
  show execSizeq s = _
  simp only [execSizeq, hg, hr, haw, hdw, if_true, release_granted (s := latch .sizeqCmd s) hg]
  rfl

end Sys2Proof.Proofs
end

section
/-! READ from its grant to its first exchange, and the READ frame at the peer (spec/43_read.md R181 to R187, R192,
spec/46_chunking_cancel.md R231, R232). -/

namespace Sys2Proof.Proofs

open Machine Laws

/-! The first sub-transfer of a plan -/

theorem legal_chunkWords {c : Config} (h : c.legal = true) : c.chunkWords ≠ some 0 := by
  simp only [Config.legal, Bool.and_eq_true, bne_iff_ne] at h
  obtain ⟨-, hchunk⟩ := h
  exact hchunk

/-- A command that is cut has at least two sub-transfers (R231). -/
theorem two_le_chunkCount {c n : Nat} (hc : 1 ≤ c) (hn : c < n) : 2 ≤ chunkCount c n :=
  (Nat.le_div_iff_mul_le hc).2 (by omega)

/-- The sub-transfers of a command that is cut (R231). -/
theorem plan_cut {c n : Nat} (hn : c < n) (a : Nat) :
    plan (some c) a n = (List.range (chunkCount c n)).map (chunkAt a n c) :=
  if_neg (by omega)

/-- The plan starts at the command's address, with all its words or a chunk of them (R231). -/
theorem plan_first {chunkWords : Option Nat} (h : chunkWords ≠ some 0) (a n : Nat) :
    ∃ rest, plan chunkWords a n = (a, firstCount chunkWords n) :: rest := by
  cases chunkWords with
  | none => exact ⟨[], rfl⟩
  | some c =>
    have hc : 1 ≤ c := Nat.one_le_iff_ne_zero.2 fun h0 => h (congrArg some h0)
    by_cases hn : n ≤ c
    · rw [show plan (some c) a n = [(a, n)] from if_pos hn, show firstCount (some c) n = n from Nat.min_eq_right hn]
      exact ⟨[], rfl⟩
    · have hn : c < n := by omega
      obtain ⟨k, hk⟩ := Nat.exists_eq_add_of_le' (two_le_chunkCount hc hn)
      have hfirst : chunkAt a n c 0 = (a, c) := by simp [chunkAt, hk]
      rw [plan_cut hn, hk, List.range_succ_eq_map, List.map_cons, hfirst,
        show firstCount (some c) n = c from Nat.min_eq_left hn.le]
      exact ⟨_, rfl⟩

/-! The start of a READ exchange -/

/-- `s` with the exchange of the READ sub-transfer `q` started (R185 to R187). -/
def readStarted (aw dw : Nat) (q : Nat × Nat) (s : State) : State :=
  loadExchange (opcodeBits s.cfg.opRead ++ natToBits q.1 aw) ((q.2 + 1) * dw) dw (some dw) s

theorem startRead_starts {s : State} {aw dw : Nat} {q : Nat × Nat} (hops : DistinctOpcodes s.cfg)
    (hg : granted s = true) (hq : q.1 < 2 ^ aw) : startRead aw dw q s = .next (readStarted aw dw q s) := by
  rw [startRead, encode_readFrame hq]
  exact xstart_opcodeBits hops.read_nop hg _ _ _ _

/-- The command registers of a READ of `n` words from `a` on that has the words `rq` and stands at sub-transfer `k`. -/
def readRegs (a n k : Nat) (rq : List Nat) : CommandRegs :=
  { op := some .readCmd, addr := some a, count := some n, wq := [], rq := rq, ki := k, doneWords := rq.length }

/-- The latch and step 4 of READ (R181, R270). -/
theorem beginTransfer_latch_read (a n : Nat) (s : State) :
    beginTransfer (latch (.readCmd a n) s) = { s with cmd := readRegs a n 0 [] } := rfl

section Granted

variable {s : State} {aw dw a n : Nat} (hg : granted s = true) (hl : s.lc = .ready) (haw : s.aw = some aw)
  (hdw : s.dw = some dw)
include hg hl haw hdw

/-- READ past its checks starts its first sub-transfer (R181). -/
theorem exec_readCmd_valid {q : Nat × Nat} {rest : List (Nat × Nat)} (hops : DistinctOpcodes s.cfg)
    (hrange : readInRange aw a n = true) (hstarts : startsEncodable aw (plan s.cfg.chunkWords a n) = true)
    (hplan : plan s.cfg.chunkWords a n = q :: rest) :
    exec (.readCmd a n) s = .next (readStarted aw dw q { s with cmd := readRegs a n 0 [] }) := by
  have hq : q.1 < 2 ^ aw := startsEncodable_mem hstarts (by simp [hplan])
  have hvalid : (readInRange aw a n && startsEncodable aw (q :: rest)) = true := by rw [hrange, ← hplan, hstarts]; rfl
  have hrun : exec (.readCmd a n) s = startRead aw dw q (beginTransfer (latch (.readCmd a n) s)) := by
    show execRead a n s = _
    simp only [execRead, hg, isReady, hl, beq_self_eq_true, haw, hdw, hplan, hvalid, if_true]
  rw [hrun]
  exact startRead_starts (s := { s with cmd := readRegs a n 0 [] }) hops hg hq

/-- READ that fails its checks returns `OutOfRange` (R183, R232). -/
theorem exec_readCmd_invalid
    (hv : (readInRange aw a n && startsEncodable aw (plan s.cfg.chunkWords a n)) = false) :
    exec (.readCmd a n) s = .next (returnedAtOnce s
      { s.cmd with op := some .readCmd, addr := some a, count := some n, wq := [] } .outOfRange .nothing) := by
  show execRead a n s = _
  simp only [execRead, hg, isReady, hl, beq_self_eq_true, haw, hdw, hv, if_true, raiseFailure,
    release_granted (s := latch (.readCmd a n) s) hg]
  rfl

end Granted

/-! The obligations -/

/-- Settles O30: the first sub-transfer of the plan starts at the address, with the first words. -/
theorem readStartsItsFirstExchange : Obligations.ReadStartsItsFirstExchange := by
  intro s aw dw a n hlegal hg hl haw hdw ha hn hstarts
  obtain ⟨rest, hplan⟩ := plan_first (legal_chunkWords hlegal) a n
  exact exec_readCmd_valid hg hl haw hdw (legal_distinctOpcodes hlegal) (readInRange_iff.2 ⟨ha, hn⟩)
    (by simpa [startsEncodable] using hstarts) hplan

/-- Settles O32: each bad operand fails the check; with no chunking only the first start address is checked. -/
theorem readOutOfRangeSendsNothing : Obligations.ReadOutOfRangeSendsNothing := by
  intro s aw dw a n hlegal hg hl haw hdw
  refine ⟨fun hbad => ?_, fun _ _ hstarts => ?_, fun ha hn hchunk => ?_⟩
  · have hrange : readInRange aw a n = false := by
      rw [Bool.eq_false_iff, ne_eq, readInRange_iff]; omega
    exact exec_readCmd_invalid hg hl haw hdw (by rw [hrange]; rfl)
  · exact exec_readCmd_invalid hg hl haw hdw (by rw [hstarts, Bool.and_false])
  · exact ⟨_, _, exec_readCmd_starts (legal_distinctOpcodes hlegal) hchunk hg hl haw hdw ha hn, rfl⟩

/-- Settles O19: the end of `TX` with the answer of either peer to a READ frame. -/
theorem aReadFrameAsksForTheWordsFromItsAddress : Obligations.AReadFrameAsksForTheWordsFromItsAddress := by
  intro s a hs
  rw [exec_readFrame_sent hs]
  refine ⟨fun hn hp => ?_, fun paw pdw m n hn hpdw hbits hp => ?_, fun hn => ?_⟩
  · rw [endTx_receiving hn, hp]; rfl
  · rw [endTx_receiving hn, hp, hbits, readAnswer_reference hpdw]
  · rw [endTx_exchangeEnded hn]

end Sys2Proof.Proofs
end

section
/-! READ at the call level (spec/43_read.md R181, R187 to R190): one sub-transfer after the other, each with a word of
garbage before its words. -/

namespace Sys2Proof.Proofs

open Machine Laws

/-! The loop, one sub-transfer at a time -/

/-- An exchange that failed, with the status its command takes over (R164, R188, R207). -/
inductive Failed : XchgOutcome → Status → Prop
  | transportError : Failed .transportError .transportError
  | cancelled : Failed .cancelled .cancelled

theorem Failed.ne_ok {o : XchgOutcome} {st : Status} (h : Failed o st) (r : Bits) : o ≠ .ok r := by
  cases h <;> exact nofun

theorem ok_or_failed (o : XchgOutcome) : (∃ r, o = .ok r) ∨ ∃ st, Failed o st := by
  cases o with
  | ok r => exact .inl ⟨r, rfl⟩
  | transportError => exact .inr ⟨_, .transportError⟩
  | cancelled => exact .inr ⟨_, .cancelled⟩

/-- The events of the exchange of the READ sub-transfer `q` (R185, R187). -/
def readEvents (c : Config) (aw dw : Nat) (q : Nat × Nat) (o : XchgOutcome) : List Event :=
  [.xchg (opcodeBits c.opRead ++ natToBits q.1 aw) ((q.2 + 1) * dw), .xchgEnd o]

section Loop

variable {c : Config} {aw dw : Nat} {q : Nat × Nat} {p : List (Nat × Nat)} {e : SubEnv} {envs : List SubEnv}
  {rq : List Nat} {events : List Event}

/-- Step 5a: the between-chunks point comes before all that sub-transfer 0 does too (R240, R243). -/
theorem readLoop_between : readLoop c aw dw false (q :: p) (e :: envs) rq events =
    if e.cancelReq then
      .returns ⟨.ready, some (aw, dw), .cancelled, .nothing, events ++ [.progress rq.length]⟩
    else readLoop c aw dw true (q :: p) (e :: envs) rq (events ++ [.progress rq.length]) := by
  cases h : e.cancelReq <;> simp [readLoop, chunkPoint, h]

/-- Steps 5d and 5e after an `Ok` exchange (R189). -/
theorem readLoop_ok {r : Bits} {ws : List Nat} (hq : q.1 < 2 ^ aw)
    (ho : sendRcv ((q.2 + 1) * dw) e.answer = .ok r) (hw : responseWords r dw dw q.2 = some ws) :
    readLoop c aw dw true (q :: p) (e :: envs) rq events =
      readLoop c aw dw false p envs (rq ++ ws) (events ++ readEvents c aw dw q (.ok r)) := by
  simp [readLoop, chunkPoint, encode_readFrame hq, ho, hw, readEvents]

/-- A failed exchange ends the command (R188). -/
theorem readLoop_failed {o : XchgOutcome} {st : Status} (hf : Failed o st) (hq : q.1 < 2 ^ aw)
    (ho : sendRcv ((q.2 + 1) * dw) e.answer = o) :
    readLoop c aw dw true (q :: p) (e :: envs) rq events =
      .returns ⟨.ready, some (aw, dw), st, .nothing, events ++ readEvents c aw dw q o⟩ := by
  cases hf <;> simp [readLoop, chunkPoint, encode_readFrame hq, ho, readEvents]

end Loop

/-! Garbage, then words -/

/-- The words that follow one word of garbage are what the cut gives (R143, R187). -/
theorem responseWords_garbage {dw : Nat} {g : Bits} {ws : List Nat} (hg : g.length = dw)
    (hws : ∀ w ∈ ws, w < 2 ^ dw) :
    responseWords (g ++ ws.flatMap fun w => natToBits w dw) dw dw ws.length = some ws := by
  have hwords := dataWords_flatMap_append hws []
  rw [List.append_nil] at hwords
  rw [responseWords_eq_dataWords (by simp [hg]), List.drop_left' hg, hwords]

theorem sendRcv_garbage {dw : Nat} {g : Bits} (hg : g.length = dw) (ws : List Nat) :
    sendRcv ((ws.length + 1) * dw) (.bits (g ++ ws.flatMap fun w => natToBits w dw)) =
      .ok (g ++ ws.flatMap fun w => natToBits w dw) :=
  if_pos (by rw [List.length_append, hg, flatMap_natToBits_length, Nat.succ_mul, Nat.add_comm])

/-- The environment's part where each sub-transfer is answered with garbage and then its words, and none cancelled,
as the statement writes it. -/
def garbageThenWords (dw : Nat) (gs : List Bits) (wss : List (List Nat)) : List SubEnv :=
  List.zipWith (fun g ws => ⟨false, .bits (g ++ ws.flatMap fun w => natToBits w dw)⟩) gs wss

/-- The loop collects the words of the sub-transfers it has left, in order (R189). -/
theorem readLoop_garbageThenWords {c : Config} {aw dw : Nat} {p : List (Nat × Nat)} {gs : List Bits}
    {wss : List (List Nat)} (hstarts : startsEncodable aw p = true) (hlen : gs.length = wss.length)
    (hcounts : wss.map List.length = p.map (·.2)) (hgs : ∀ g ∈ gs, g.length = dw)
    (hwss : ∀ ws ∈ wss, ∀ w ∈ ws, w < 2 ^ dw) (first : Bool) (rq : List Nat) (events : List Event) :
    ∃ ev, readLoop c aw dw first p (garbageThenWords dw gs wss) rq events =
      .returns ⟨.ready, some (aw, dw), .ok, .words (rq ++ wss.flatten), ev⟩ := by
  induction p generalizing gs wss first rq events with
  | nil =>
    obtain rfl : wss = [] := List.map_eq_nil_iff.1 hcounts
    rw [List.flatten_nil, List.append_nil]
    exact ⟨events, rfl⟩
  | cons q p ih =>
    obtain ⟨ws, wss, rfl, hq, hcounts⟩ := List.map_eq_cons_iff.1 hcounts
    obtain ⟨g, gs, rfl⟩ := List.exists_cons_of_length_eq_add_one hlen
    obtain ⟨hg, hgs⟩ := List.forall_mem_cons.1 hgs
    obtain ⟨hws, hwss⟩ := List.forall_mem_cons.1 hwss
    have hstart : q.1 < 2 ^ aw := startsEncodable_mem hstarts List.mem_cons_self
    obtain ⟨-, hrest⟩ : _ ∧ startsEncodable aw p = true := Bool.and_eq_true_iff.1 hstarts
    have hone (events : List Event) := readLoop_ok (c := c) (p := p)
      (e := ⟨false, .bits (g ++ ws.flatMap fun w => natToBits w dw)⟩) (envs := garbageThenWords dw gs wss)
      (rq := rq) (events := events) hstart (hq ▸ sendRcv_garbage hg ws) (hq ▸ responseWords_garbage hg hws)
    have hloop (events : List Event) := ih hrest (Nat.succ.inj hlen) hcounts hgs hwss false (rq ++ ws) events
    rw [List.flatten_cons, ← List.append_assoc]
    cases first with
    | true =>
      obtain ⟨ev, hev⟩ := hloop (events ++ readEvents c aw dw q _)
      exact ⟨ev, (hone events).trans hev⟩
    | false =>
      obtain ⟨ev, hev⟩ := hloop (events ++ [.progress rq.length] ++ readEvents c aw dw q _)
      exact ⟨ev, readLoop_between.trans ((hone _).trans hev)⟩

/-! The words of a plan -/

/-- Full chunks and the rest of a command add up to all of it (R231, R233). -/
theorem sum_chunkAt {a n c : Nat} (hc : 1 ≤ c) (hn : c < n) :
    (((List.range (chunkCount c n)).map (chunkAt a n c)).map (·.2)).sum = n := by
  obtain ⟨k, hk⟩ := Nat.exists_eq_add_of_le' (two_le_chunkCount hc hn)
  have hcover : (k + 1) * c ≤ n := by
    have hmul : chunkCount c n * c ≤ n + c - 1 := Nat.div_mul_le_self _ _
    rw [hk, Nat.succ_mul] at hmul
    omega
  have hfull : ∀ x ∈ ((List.range (k + 1)).map (chunkAt a n c)).map (·.2), x = c := by
    intro x hx
    simp only [List.mem_map, List.mem_range] at hx
    obtain ⟨_, ⟨j, hj, rfl⟩, rfl⟩ := hx
    exact if_pos (by omega)
  have hlast : (chunkAt a n c (k + 1)).2 = n - (k + 1) * c := by simp [chunkAt, hk]
  rw [hk, List.range_succ, List.map_append, List.map_append, List.sum_append, List.sum_eq_card_nsmul _ _ hfull]
  simp [hlast]
  omega

/-- The sub-transfers of a plan have the command's words in all (R231). -/
theorem plan_words {chunkWords : Option Nat} (h : chunkWords ≠ some 0) (a n : Nat) :
    ((plan chunkWords a n).map (·.2)).sum = n := by
  cases chunkWords with
  | none => exact Nat.add_zero n
  | some c =>
    by_cases hn : n ≤ c
    · rw [show plan (some c) a n = [(a, n)] from if_pos hn]; exact Nat.add_zero n
    · have hc : 1 ≤ c := Nat.one_le_iff_ne_zero.2 fun h0 => h (congrArg some h0)
      rw [plan_cut (by omega)]
      exact sum_chunkAt hc (by omega)

/-- The caller sees a single word exactly for a list of one word (R101 (b), D31). -/
theorem readResult_sequence {ws : List Nat} (h : ws.length ≠ 1) : readResult ws = .sequence ws := by
  match ws with
  | [] => rfl
  | [w] => exact absurd rfl h
  | _ :: _ :: _ => rfl

/-- Settles O34: the loop collects exactly the words, and the plan has the command's count of them. -/
theorem readReturnsTheWordsAfterTheGarbage : Obligations.ReadReturnsTheWordsAfterTheGarbage := by
  intro c aw dw a n gs wss _ hrange hstarts hlen hcounts hgs hwss
  refine ⟨?_, fun hlegal => ?_⟩
  · have hvalid : (readInRange aw a n && startsEncodable aw (plan c.chunkWords a n)) = true := by
      rw [hrange, hstarts]; rfl
    rw [callRead, if_pos hvalid]
    exact readLoop_garbageThenWords hstarts hlen hcounts hgs hwss true [] []
  · have hcount : wss.flatten.length = n := by
      rw [List.length_flatten, hcounts, plan_words (legal_chunkWords hlegal)]
    refine ⟨hcount, fun h1 => ?_, fun h1 => readResult_sequence (hcount.trans_ne h1)⟩
    obtain ⟨w, hw⟩ := List.length_eq_one_iff.1 (hcount.trans h1)
    exact ⟨w, hw, by rw [hw]; rfl⟩

end Sys2Proof.Proofs
end

section
/-! Every READ exchange, whichever step starts it (spec/43_read.md R185 to R187): what is sent, what is asked for, and
that the bits to skip leave nothing behind. -/

namespace Sys2Proof.Proofs

open Machine Laws

/-! The start of a READ exchange by some step -/

/-- `t` is a state of a READ at some sub-transfer of its plan, with the exchange of that sub-transfer started. -/
def ReadJustStarted (t : State) : Prop :=
  ∃ u p aw dw q, currentPlan u = some p ∧ u.aw = some aw ∧ u.dw = some dw ∧ p[u.cmd.ki]? = some q ∧
    startRead aw dw q u = .next t

/-- Of the granted commands only READ starts an exchange for a READ. -/
theorem exec_command_readJustStarted {cmd : Command} {s t : State} (h : exec cmd.toInstr s = .next t)
    (hp : t.eng.ph ≠ .idle) (hop : t.cmd.op = some .readCmd) : ReadJustStarted t := by
  cases cmd with
  | initCmd =>
    obtain ⟨-, -, hs⟩ := execInit_next h
    obtain ⟨-, rfl⟩ := startSize_next hs
    cases hop
  | sizeqCmd =>
    obtain ⟨-, ⟨-, rfl⟩ | ⟨-, aw, dw, -, -, rfl⟩⟩ := execSizeq_next h
    all_goals exact absurd rfl hp
  | readCmd a n =>
    obtain ⟨-, ⟨-, rfl⟩ | ⟨-, aw, dw, ha, hd, ⟨-, rfl⟩ | ⟨-, q, rest, hplan, hs⟩⟩⟩ := execRead_next h
    · exact absurd rfl hp
    · exact absurd rfl hp
    · exact ⟨beginTransfer (latch (.readCmd a n) s), q :: rest, aw, dw, q, congrArg some hplan, ha, hd, rfl, hs⟩
  | writeCmd a ws =>
    obtain ⟨-, ⟨-, rfl⟩ | ⟨-, aw, dw, -, -, ⟨-, rfl⟩ | ⟨-, q, rest, -, hs⟩⟩⟩ := execWrite_next h
    · exact absurd rfl hp
    · exact absurd rfl hp
    · obtain ⟨-, f, -, rfl⟩ := startWrite_next hs
      cases hop

/-- A command that acts on the outcome of its exchange starts none. -/
theorem collect_idle {o : XchgOutcome} {s t : State} (hi : s.eng.ph = .idle) (h : collect o s = .next t) :
    t.eng.ph = .idle := by
  have hfinish {r : Bool} (ht : finishTransfer r s = .next t) : t.eng.ph = .idle := by
    obtain ⟨p, q, -, -, rfl⟩ := finishTransfer_next ht
    obtain ⟨-, ht⟩ | ⟨d, ht⟩ := finishSub_cases p.length q.2 (if r then s.eng.xq else []) r s
    · rw [ht]; exact hi
    · rw [ht]; rfl
  obtain ⟨-, rfl⟩ | ⟨-, rfl⟩ | ⟨r, -, -, rfl⟩ | ⟨r, -, -, ht⟩ | ⟨r, -, -, ht⟩ := collect_next h
  · rfl
  · rfl
  · obtain ⟨aw, dw, -, -, ht⟩ | ⟨aw, dw, -, -, -, ht⟩ | ⟨-, ht⟩ := finishInit_cases s
    · rw [ht]; rfl
    · rw [ht]; rfl
    · rw [ht]; rfl
  · exact hfinish ht
  · exact hfinish ht

/-- At a between-chunks point a READ starts its current sub-transfer (R240). -/
theorem betweenChunks_readJustStarted {b : Bool} {s t : State} (h : betweenChunks b s = .next t)
    (hp : t.eng.ph ≠ .idle) (hop : t.cmd.op = some .readCmd) : ReadJustStarted t := by
  obtain ⟨-, rfl⟩ | ⟨-, hs⟩ := betweenChunks_next h
  · exact absurd rfl hp
  · obtain ⟨p, aw, dw, q, hplan, ha, hd, hq, ⟨-, ht⟩ | ⟨hwrite, ht⟩⟩ := startCurrent_next hs
    · exact ⟨_, p, aw, dw, q, hplan, ha, hd, hq, ht⟩
    · obtain ⟨-, f, -, rfl⟩ := startWrite_next ht
      cases hwrite.symm.trans hop

/-- Only a tick of an idle engine starts an exchange, at a grant or at a between-chunks point. -/
theorem stepMove_readJustStarted {m : Move} {s t : State} (h : stepMove m s = .next t) (hi : s.eng.ph = .idle)
    (hp : t.eng.ph ≠ .idle) (hop : t.cmd.op = some .readCmd) : ReadJustStarted t := by
  cases m with
  | tick x =>
    have h : idleStep x s = .next t := by simpa [stepMove, blockStep, hi] using h
    obtain ⟨-, o, -, ht⟩ | ⟨-, -, ht⟩ | ⟨-, i, c, cmd, -, ht⟩ | ⟨-, -, rfl⟩ := idleStep_next h
    · exact absurd (collect_idle hi ht) hp
    · exact betweenChunks_readJustStarted ht hp hop
    · exact exec_command_readJustStarted ht hp hop
    · exact absurd hi hp
  | call c cmd => obtain ⟨-, rfl⟩ := present_next h; exact absurd hi hp
  | linkFail j | linkAbort j =>
    cases (breakExchange_idle hi).symm.trans h
    exact absurd hi hp
  | reset => obtain ⟨-, -, rfl⟩ := resetBlock_next h; exact absurd rfl hp
  | silence => cases h; exact absurd hi hp
  | evaluate p => obtain ⟨v, rfl⟩ := exec_primitive_next h; exact absurd hi hp

/-! What such an exchange is -/

/-- A READ frame is its opcode and its address (R91). -/
theorem encode_readFrame_some {c : Config} {aw dw a : Nat} {f : Bits} (h : encode c aw dw (.readFrame a) = some f) :
    f = opcodeBits c.opRead ++ natToBits a aw := by
  by_cases ha : a < 2 ^ aw
  · exact Option.some.inj (h.symm.trans (encode_readFrame ha c dw))
  · simp [encode, encodeHead, fromUnsigned_nat, ha] at h

/-- Bits within the skip are counted off and leave no trace in the partitioner (R141). -/
theorem sampleBits_skipped {g : Bits} {e : Engine} (h : g.length ≤ e.skip) :
    (sampleBits g e).skip = e.skip - g.length ∧ (sampleBits g e).wacc = e.wacc ∧ (sampleBits g e).xq = e.xq := by
  induction g generalizing e with
  | nil => exact ⟨rfl, rfl, rfl⟩
  | cons b g ih =>
    rw [List.length_cons] at h
    rw [sampleBits_cons, sampleBit_dropped (by omega), List.length_cons, Nat.add_comm, ← Nat.sub_sub]
    exact ih (e := { e with rxbuf := e.rxbuf ++ [b], rxn := e.rxn - 1, skip := e.skip - 1 })
      (by show g.length ≤ e.skip - 1; omega)

/-- The latch of a READ with a plan has an address and a count (R27). -/
theorem currentPlan_eq_some {s : State} {p : List (Nat × Nat)} (h : currentPlan s = some p) :
    ∃ a n, s.cmd.addr = some a ∧ s.cmd.count = some n ∧ plan s.cfg.chunkWords a n = p := by
  unfold currentPlan at h
  split at h
  next a n ha hn => cases h; exact ⟨a, n, ha, hn, rfl⟩
  next => cases h

/-- Settles O31: the exchange is the one of `startRead`, and its first bits are within the skip. -/
theorem everyReadExchangeSkipsItsFirstWord : Obligations.EveryReadExchangeSkipsItsFirstWord := by
  intro s t hstep hi hp hop
  obtain ⟨script, draws, hu⟩ := takeMove_frame s
  rw [step_eq, hu] at hstep
  obtain ⟨u, p, aw, dw, q, hplan, haw, hdw, hq, hs⟩ := stepMove_readJustStarted hstep hi hp hop
  obtain ⟨-, f, hf, rfl⟩ := startRead_next hs
  obtain rfl := encode_readFrame_some hf
  obtain ⟨a, n, ha, hn, rfl⟩ := currentPlan_eq_some hplan
  refine ⟨aw, dw, a, n, q, haw, hdw, ha, hn, hq, rfl, by simp, rfl, rfl, rfl, by simp, fun g hg => ?_⟩
  obtain ⟨hskip, hwacc, hxq⟩ := sampleBits_skipped (g := g)
    (e := (loadExchange (opcodeBits u.cfg.opRead ++ natToBits q.1 aw) ((q.2 + 1) * dw) dw (some dw) u).eng) hg.le
  exact ⟨hskip.trans (by rw [hg]; exact Nat.sub_self dw), hwacc, hxq⟩

end Sys2Proof.Proofs
end

section
/-! READ run bit by bit (spec/43_read.md R181, R188 to R190, spec/46_chunking_cancel.md R233, R240 to R243): the
exchange, the step that acts on its outcome and the between-chunks point each follow the call-level loop, and so does
the whole command by induction on the plan. -/

namespace Sys2Proof.Proofs

open Machine Laws

/-! A command in progress, seen from its grant -/

/-- `u` is a state of the command granted in `s`, with the registers `regs` and after the events `ev`: all that the
command and its exchanges do not write is as in `s`. -/
structure During (s : State) (regs : CommandRegs) (ev : List Event) (u : State) : Prop where
  same : SameCommand { s with cmd := regs } u
  peer : u.env.peer = s.env.peer
  bvResult : u.bvResult = s.bvResult
  history : u.history = s.history ++ ev

section During

variable {s u t : State} {regs : CommandRegs} {ev : List Event}

theorem during_granted (s : State) (regs : CommandRegs) : During s regs [] { s with cmd := regs } :=
  ⟨⟨rfl, rfl, rfl, rfl, rfl, rfl, rfl, rfl⟩, rfl, rfl, (List.append_nil _).symm⟩

theorem During.exchanged (h : During s regs ev u) {p : Bits} {n skip wlen : Nat} {o : XchgOutcome}
    (hx : Exchanged u p n skip wlen o t) : During s regs (ev ++ [.xchg p n, .xchgEnd o]) t :=
  ⟨h.same.trans hx.same, hx.peer.trans h.peer, hx.bvResult.trans h.bvResult,
    by rw [hx.history, h.history, List.append_assoc]⟩

/-- The command writes its registers and takes note of its outcome. -/
theorem During.withRegs (h : During s regs ev u) (regs' : CommandRegs) (e : Engine) :
    During s regs' ev { u with cmd := regs', eng := e } := by
  obtain ⟨⟨hcfg, hlc, haw, hdw, hbusy, howner, hpending, -⟩, hpeer, hbv, hhist⟩ := h
  exact ⟨⟨hcfg, hlc, haw, hdw, hbusy, howner, hpending, rfl⟩, hpeer, hbv, hhist⟩

/-- Progress is reported (R243). -/
theorem During.progress (h : During s regs ev u) :
    During s regs (ev ++ [.progress regs.doneWords]) (emitProgress u) := by
  refine ⟨h.same.trans ⟨rfl, rfl, rfl, rfl, rfl, rfl, rfl, rfl⟩, h.peer, h.bvResult, ?_⟩
  rw [emitProgress_history, h.history, h.same.cmd, List.append_assoc]

/-- A return that keeps the lifecycle (R262, R272). -/
theorem During.returned (h : During s regs ev u) {c : Caller} {aw dw : Nat} (howner : s.owner = some c)
    (hl : s.lc = .ready) (haw : s.aw = some aw) (hdw : s.dw = some dw) (st : Status) (d : RetData) :
    returnedAs s c ⟨.ready, some (aw, dw), st, d, ev⟩ (release st d u) := by
  have hu : u.owner = some c := h.same.owner.trans howner
  exact ⟨h.same.lc.trans hl, ⟨h.same.aw.trans haw, h.same.dw.trans hdw⟩, rfl, by simp [hu], by simp [hu, h.history],
    rfl, rfl, rfl, rfl, h.same.cfg, h.same.pending, h.peer, h.bvResult⟩

end During

/-! Single steps of a transfer -/

/-- A failed exchange is passed on as the command's status (R164, R188, R207). -/
theorem collect_failed {o : XchgOutcome} {st : Status} (h : Failed o st) (s : State) :
    collect o s = .next (raiseFailure st s) := by
  cases h <;> rfl

/-- An idle engine of a command in progress without an outcome is at a between-chunks point (R240). -/
theorem step_betweenChunks {s : State} (hb : s.busy = true) (hi : s.eng.ph = .idle) (ho : s.eng.outcome = none)
    (x : Inputs) (rest : List Move) :
    step (withScript s (.tick x :: rest)) = betweenChunks x.cancelReq (withScript s rest) := by
  rw [step_cons]
  simp only [stepMove, blockStep, idleStep, withScript_eng, withScript_busy, hb, hi, ho, if_true]

section Steps

variable {s : State} {p : List (Nat × Nat)} {q : Nat × Nat} (hp : currentPlan s = some p)
  (hop : s.cmd.op = some .readCmd) (hq : p[s.cmd.ki]? = some q)
include hp hop hq

/-- READ keeps the words of a sub-transfer and goes on to the next (R181 step 5e, R189). -/
theorem collect_readCmd_next (hk : s.cmd.ki + 1 < p.length) (r : Bits) :
    collect (.ok r) s = .next (nextSub q.2 s.eng.xq s) := by
  simp [collect, hop, finishTransfer, hp, hq, finishSub, hk, nextSub]

/-- READ returns after the last sub-transfer (R181 step 6, R190). -/
theorem collect_readCmd_last (hk : s.cmd.ki + 1 = p.length) (r : Bits) :
    collect (.ok r) s = .next (transferReturned q.2 s.eng.xq (.words (s.cmd.rq ++ s.eng.xq)) s) := by
  simp [collect, hop, finishTransfer, hp, hq, finishSub, hk, transferReturned]

theorem startCurrent_readCmd {aw dw : Nat} (haw : s.aw = some aw) (hdw : s.dw = some dw) :
    startCurrent s = startRead aw dw q s := by
  simp only [startCurrent, hp, haw, hdw, hq, hop]

end Steps

/-! The moves of a transfer -/

section Moves

variable {frameBits bits : Nat → Nat} {q : Nat × Nat} {p : List (Nat × Nat)} {e : SubEnv} {envs : List SubEnv}

theorem transferMoves_between : transferMoves frameBits bits false (q :: p) (e :: envs) =
    [.tick { cancelReq := e.cancelReq }] ++
      if e.cancelReq then [] else transferMoves frameBits bits true (q :: p) (e :: envs) := by
  cases h : e.cancelReq <;> simp [transferMoves, h]

theorem transferMoves_ok {r : Bits} (h : sendRcv (bits q.2) e.answer = .ok r) :
    transferMoves frameBits bits true (q :: p) (e :: envs) =
      exchangeMoves (frameBits q.2) (bits q.2) e.answer ++ transferMoves frameBits bits false p envs := by
  simp [transferMoves, h]

theorem transferMoves_failed {o : XchgOutcome} {st : Status} (hf : Failed o st)
    (h : sendRcv (bits q.2) e.answer = o) :
    transferMoves frameBits bits true (q :: p) (e :: envs) =
      exchangeMoves (frameBits q.2) (bits q.2) e.answer := by
  cases hf <;> simp [transferMoves, h]

end Moves

/-- The cut gives as many words as it is asked for (R143). -/
theorem partitionFrom_length {d : Bits} {wlen j m : Nat} {ws : List Nat} (h : partitionFrom d wlen j m = some ws) :
    ws.length = m := by
  induction m generalizing j ws with
  | zero => cases h; rfl
  | succ m ih =>
    rw [partitionFrom] at h
    split at h
    next w rest _ hrest => cases h; exact congrArg Nat.succ (ih hrest)
    next => cases h

theorem responseWords_length {r : Bits} {skip wlen m : Nat} {ws : List Nat}
    (h : responseWords r skip wlen m = some ws) : ws.length = m := by
  unfold responseWords at h
  split at h
  next => exact partitionFrom_length h
  next => cases h

theorem getElem?_of_drop_eq_cons {α : Type} {l p : List α} {k : Nat} {x : α} (h : l.drop k = x :: p) :
    l[k]? = some x ∧ l.length = k + 1 + p.length := by
  have hhead := congrArg List.head? h
  have hlength := congrArg List.length h
  rw [List.head?_drop] at hhead
  rw [List.length_drop, List.length_cons] at hlength
  exact ⟨hhead, by omega⟩

/-! READ follows the call-level loop -/

/-- The moves of a READ over the sub-transfers of a plan, as the statement writes them. -/
def readMoves (aw dw : Nat) : Bool → List (Nat × Nat) → List SubEnv → List Move :=
  transferMoves (fun _ => 2 + aw) fun k => (k + 1) * dw

/-- By the moves `ms` from `t` the command granted in `s` returns to its caller as the call-level run says. -/
def RunsAs (s : State) (c : Caller) (run : CallRun) (ms : List Move) (t : State) : Prop :=
  ∃ res u, run = .returns res ∧ MovesLeadTo ms t u ∧ returnedAs s c res u

theorem RunsAs.after {s t u : State} {c : Caller} {run : CallRun} {ms ns : List Move} (h : MovesLeadTo ms t u)
    (k : RunsAs s c run ns u) : RunsAs s c run (ms ++ ns) t := by
  obtain ⟨res, v, hrun, hv, hret⟩ := k
  exact ⟨res, v, hrun, h.append hv, hret⟩

/-- A READ of `n` words from `a` on, granted in `s` to `c` on the oracle peer, that has passed its checks. -/
structure ValidRead (s : State) (c : Caller) (aw dw a n : Nat) : Prop where
  opcodes : DistinctOpcodes s.cfg
  busy : s.busy = true
  owner : s.owner = some c
  ready : s.lc = .ready
  addressWidth : s.aw = some aw
  dataWidth : s.dw = some dw
  wordBits : 1 ≤ dw
  peer : s.env.peer = .oracle
  starts : startsEncodable aw (plan s.cfg.chunkWords a n) = true

section Read

variable {s t u : State} {c : Caller} {aw dw a n k : Nat} {q : Nat × Nat} {p : List (Nat × Nat)} {e : SubEnv}
  {envs : List SubEnv} {rq : List Nat} {ev : List Event} {o : XchgOutcome}

/-- In `t` the exchange of the READ sub-transfer `q` has ended with `o`, `Ok` with the words of the cut, and the
command has not yet acted on it. -/
structure ReadEnded (s : State) (aw dw : Nat) (q : Nat × Nat) (regs : CommandRegs) (ev : List Event)
    (o : XchgOutcome) (t : State) : Prop where
  during : During s regs (ev ++ readEvents s.cfg aw dw q o) t
  phase : t.eng.ph = .idle
  outcome : t.eng.outcome = some o
  words : ∀ r, o = .ok r → responseWords r dw dw q.2 = some t.eng.xq

/-- The exchange of a sub-transfer ends with the outcome of `send_rcv` (R130, R137). -/
theorem During.readEnds {regs : CommandRegs} (hu : During s regs ev u) (hpeer : s.env.peer = .oracle) (hdw : 1 ≤ dw)
    (q : Nat × Nat) (answer : LinkAnswer) :
    ∃ t, MovesLeadTo (linkMoves (2 + aw) ((q.2 + 1) * dw) answer) (readStarted aw dw q u) t ∧
      ReadEnded s aw dw q regs ev (sendRcv ((q.2 + 1) * dw) answer) t := by
  obtain ⟨t, hmoves, hx⟩ := exchange_oracle (s := u) (p := opcodeBits u.cfg.opRead ++ natToBits q.1 aw)
    (n := (q.2 + 1) * dw) (skip := dw) (hu.peer.trans hpeer) (by rw [← List.length_pos_iff]; simp) hdw answer
  have hcfg : u.cfg = s.cfg := hu.same.cfg
  have hduring := hu.exchanged hx
  rw [hcfg] at hduring
  rw [List.length_append, opcodeBits_length, natToBits_length] at hmoves
  exact ⟨t, hmoves, hduring, hx.phase, hx.outcome, fun r ho => hx.words r q.2 ho (Nat.succ_mul _ _)⟩

/-- The registers of a READ at sub-transfer `k` of its plan. -/
theorem During.atSub (hu : During s (readRegs a n k rq) ev u) (hq : (plan s.cfg.chunkWords a n)[k]? = some q) :
    u.cmd = readRegs a n k rq ∧ currentPlan u = some (plan s.cfg.chunkWords a n) ∧ u.cmd.op = some .readCmd ∧
      (plan s.cfg.chunkWords a n)[u.cmd.ki]? = some q := by
  have hcmd : u.cmd = readRegs a n k rq := hu.same.cmd
  exact ⟨hcmd, hu.same.currentPlan, by rw [hcmd]; rfl, by rw [hcmd]; exact hq⟩

variable (hv : ValidRead s c aw dw a n)
include hv

/-- A failed exchange ends READ with its status (R188). -/
theorem ReadEnded.fails {st : Status} (h : ReadEnded s aw dw q (readRegs a n k rq) ev o t) (hf : Failed o st)
    (hq : q.1 < 2 ^ aw) (ho : sendRcv ((q.2 + 1) * dw) e.answer = o) :
    RunsAs s c (readLoop s.cfg aw dw true (q :: p) (e :: envs) rq ev) [.tick {}] t := by
  have hb : t.busy = true := h.during.same.busy.trans hv.busy
  refine ⟨_, _, readLoop_failed hf hq ho, .single fun rest => ?_,
    h.during.returned hv.owner hv.ready hv.addressWidth hv.dataWidth st .nothing⟩
  exact (step_collect hb h.phase h.outcome {} rest).trans (collect_failed hf _)

section Ok

variable {r : Bits} (h : ReadEnded s aw dw q (readRegs a n k rq) ev (.ok r) t)
  (hq : (plan s.cfg.chunkWords a n)[k]? = some q)
include h hq

/-- After the last sub-transfer READ returns `OK` with all its words (R190). -/
theorem ReadEnded.returns (hk : k + 1 = (plan s.cfg.chunkWords a n).length) :
    RunsAs s c (readLoop s.cfg aw dw false [] envs (rq ++ t.eng.xq) (ev ++ readEvents s.cfg aw dw q (.ok r)))
      [.tick {}] t := by
  have hb : t.busy = true := h.during.same.busy.trans hv.busy
  obtain ⟨hcmd, hplan, hop, hsub⟩ := h.during.atSub hq
  have hrq : t.cmd.rq = rq := by rw [hcmd]; rfl
  have hlast : t.cmd.ki + 1 = (plan s.cfg.chunkWords a n).length := by rw [hcmd]; exact hk
  have hret := (h.during.withRegs
    { t.cmd with rq := t.cmd.rq ++ t.eng.xq, doneWords := t.cmd.doneWords + q.2 } t.eng).returned hv.owner
    hv.ready hv.addressWidth hv.dataWidth .ok (.words (t.cmd.rq ++ t.eng.xq))
  refine ⟨_, _, ?_, .single fun rest => ?_, hret⟩
  · rw [hrq]; rfl
  · exact (step_collect hb h.phase h.outcome {} rest).trans
      (collect_readCmd_last (s := withScript t rest) hplan hop hsub hlast r)

/-- After any other it keeps the words and stands before the next (R189). -/
theorem ReadEnded.goesOn (hk : k + 1 < (plan s.cfg.chunkWords a n).length) :
    ∃ u, MovesLeadTo [.tick {}] t u ∧
      During s (readRegs a n (k + 1) (rq ++ t.eng.xq)) (ev ++ readEvents s.cfg aw dw q (.ok r)) u ∧
      u.eng.ph = .idle ∧ u.eng.outcome = none := by
  have hb : t.busy = true := h.during.same.busy.trans hv.busy
  obtain ⟨hcmd, hplan, hop, hsub⟩ := h.during.atSub hq
  have hmore : t.cmd.ki + 1 < (plan s.cfg.chunkWords a n).length := by rw [hcmd]; exact hk
  have hnext : nextSub q.2 t.eng.xq t =
      { t with cmd := readRegs a n (k + 1) (rq ++ t.eng.xq), eng := { t.eng with outcome := none } } := by
    simp [nextSub, hcmd, readRegs, responseWords_length (h.words r rfl)]
  refine ⟨nextSub q.2 t.eng.xq t, .single fun rest => ?_, ?_, h.phase, rfl⟩
  · exact (step_collect hb h.phase h.outcome {} rest).trans
      (collect_readCmd_next (s := withScript t rest) hplan hop hsub hmore r)
  · rw [hnext]
    exact h.during.withRegs _ _

end Ok

/-- The between-chunks point: progress, then `Cancelled`, or the exchange of the next sub-transfer (R240 to
R243). -/
theorem ValidRead.betweenChunks (hu : During s (readRegs a n k rq) ev u) (hi : u.eng.ph = .idle)
    (ho : u.eng.outcome = none) (hq : (plan s.cfg.chunkWords a n)[k]? = some q)
    (hgo : ∀ v, During s (readRegs a n k rq) (ev ++ [.progress rq.length]) v →
      RunsAs s c (readLoop s.cfg aw dw true (q :: p) (e :: envs) rq (ev ++ [.progress rq.length]))
        (readMoves aw dw true (q :: p) (e :: envs)) (readStarted aw dw q v)) :
    RunsAs s c (readLoop s.cfg aw dw false (q :: p) (e :: envs) rq ev) (readMoves aw dw false (q :: p) (e :: envs))
      u := by
  have hb : u.busy = true := hu.same.busy.trans hv.busy
  have hpoint : During s (readRegs a n k rq) (ev ++ [.progress rq.length]) (emitProgress u) := hu.progress
  have hstep (rest : List Move) := step_betweenChunks hb hi ho { cancelReq := e.cancelReq } rest
  rw [readLoop_between, readMoves, transferMoves_between]
  cases hcancel : e.cancelReq with
  | true =>
    rw [hcancel] at hstep
    exact ⟨_, _, rfl, .single fun rest => (hstep rest).trans rfl,
      hpoint.returned hv.owner hv.ready hv.addressWidth hv.dataWidth .cancelled .nothing⟩
  | false =>
    rw [hcancel] at hstep
    obtain ⟨-, hplan, hop, hsub⟩ := hu.atSub hq
    refine (hgo _ hpoint).after (.single fun rest => (hstep rest).trans ?_)
    have hstart := startCurrent_readCmd (s := emitProgress (withScript u rest)) hplan hop hsub
      (hu.same.aw.trans hv.addressWidth) (hu.same.dw.trans hv.dataWidth)
    have hops : DistinctOpcodes u.cfg := hu.same.cfg ▸ hv.opcodes
    exact hstart.trans (startRead_starts (s := emitProgress (withScript u rest)) hops
      ((granted_iff _).2 ⟨hb, hi, ho⟩) (startsEncodable_mem hv.starts (List.mem_of_getElem? hq)))

/-- One exchange of READ; what follows an `Ok` outcome is left to `hok`. -/
theorem ValidRead.exchange (hu : During s (readRegs a n k rq) ev u) (hq : (plan s.cfg.chunkWords a n)[k]? = some q)
    (hok : ∀ r t, ReadEnded s aw dw q (readRegs a n k rq) ev (.ok r) t →
      RunsAs s c (readLoop s.cfg aw dw false p envs (rq ++ t.eng.xq) (ev ++ readEvents s.cfg aw dw q (.ok r)))
        ([.tick {}] ++ readMoves aw dw false p envs) t) :
    RunsAs s c (readLoop s.cfg aw dw true (q :: p) (e :: envs) rq ev) (readMoves aw dw true (q :: p) (e :: envs))
      (readStarted aw dw q u) := by
  have hfit : q.1 < 2 ^ aw := startsEncodable_mem hv.starts (List.mem_of_getElem? hq)
  obtain ⟨t, hmoves, hended⟩ := hu.readEnds (aw := aw) hv.peer hv.wordBits q e.answer
  obtain ⟨r, ho⟩ | ⟨st, hf⟩ := ok_or_failed (sendRcv ((q.2 + 1) * dw) e.answer)
  · rw [ho] at hended
    rw [readLoop_ok hfit ho (hended.words r rfl), readMoves, transferMoves_ok ho, exchangeMoves_eq,
      List.append_assoc]
    exact (hok r t hended).after hmoves
  · rw [readMoves, transferMoves_failed hf rfl, exchangeMoves_eq]
    exact (hended.fails hv hf hfit rfl).after hmoves

/-- READ from the start of the exchange of a sub-transfer on, by induction on the sub-transfers after it. -/
theorem ValidRead.runs (hu : During s (readRegs a n k rq) ev u) (hp : (plan s.cfg.chunkWords a n).drop k = q :: p)
    (hlen : envs.length = p.length) :
    RunsAs s c (readLoop s.cfg aw dw true (q :: p) (e :: envs) rq ev) (readMoves aw dw true (q :: p) (e :: envs))
      (readStarted aw dw q u) := by
  induction p generalizing q e envs k rq ev u with
  | nil =>
    obtain ⟨hq, hk⟩ := getElem?_of_drop_eq_cons hp
    obtain rfl := List.length_eq_zero_iff.1 hlen
    exact hv.exchange hu hq fun r t hended => hended.returns hv hq hk.symm
  | cons q' p ih =>
    obtain ⟨hq, hk⟩ := getElem?_of_drop_eq_cons hp
    obtain ⟨e', envs, rfl⟩ := List.exists_cons_of_length_eq_add_one hlen
    have hrest : (plan s.cfg.chunkWords a n).drop (k + 1) = q' :: p := by rw [← List.tail_drop, hp]; rfl
    obtain ⟨hq', -⟩ := getElem?_of_drop_eq_cons hrest
    refine hv.exchange hu hq fun r t hended => ?_
    obtain ⟨v, hmove, hv', hi, ho⟩ := hended.goesOn hv hq (by rw [hk, List.length_cons]; omega)
    exact (hv.betweenChunks hv' hi ho hq' fun w hw => ih hw hrest (Nat.succ.inj hlen)).after hmove

end Read

/-- Settles O33: the first exchange starts at the grant, and from there on READ follows the loop. -/
theorem readRunsAsTheCallLevelRuleSays : Obligations.ReadRunsAsTheCallLevelRuleSays := by
  intro s c aw dw a n envs rest hlegal hg howner hl haw hdw hpos hpeer hrange hstarts hlen
  obtain ⟨hb, -⟩ := (granted_iff s).1 hg
  obtain ⟨p, hplan⟩ := plan_first (legal_chunkWords hlegal) a n
  have hops := legal_distinctOpcodes hlegal
  have hv : ValidRead s c aw dw a n := ⟨hops, hb, howner, hl, haw, hdw, hpos, hpeer, hstarts⟩
  obtain ⟨e, envs, rfl⟩ := List.exists_cons_of_length_eq_add_one (hlen.trans (congrArg List.length hplan))
  have hcall : callRead s.cfg aw dw a n (e :: envs) =
      readLoop s.cfg aw dw true (plan s.cfg.chunkWords a n) (e :: envs) [] [] :=
    if_pos (by rw [hrange, hstarts]; rfl)
  rw [hplan] at hlen hcall
  obtain ⟨res, u, hloop, hmoves, hret⟩ := hv.runs (k := 0) (e := e) (during_granted s (readRegs a n 0 [])) hplan
    (Nat.succ.inj hlen)
  rw [hplan]
  exact ⟨_, res, withScript u rest, exec_readCmd_valid hg hl haw hdw hops hrange hstarts hplan, hcall.trans hloop,
    hmoves rest, hret, rfl⟩

end Sys2Proof.Proofs
end

section
/-! WRITE from its grant to its first exchange, and the WRITE frame at the peer (spec/44_write.md R201 to R206, R210,
spec/20_memory.md R69, spec/46_chunking_cancel.md R231, R232). -/

namespace Sys2Proof.Proofs

open Machine Laws

/-! The start of a WRITE exchange -/

/-- The WRITE frame of the words `ws` from address `a` on (R94). -/
def writeFrameBits (c : Config) (aw dw a : Nat) (ws : List Nat) : Bits :=
  opcodeBits c.opWrite ++ natToBits a aw ++ ws.flatMap fun w => natToBits w dw

theorem writeFrameBits_length (c : Config) (aw dw a : Nat) (ws : List Nat) :
    (writeFrameBits c aw dw a ws).length = 2 + aw + ws.length * dw := by
  rw [writeFrameBits, List.length_append, List.length_append, opcodeBits_length, natToBits_length,
    flatMap_natToBits_length]

/-- `s` with the exchange of the WRITE sub-transfer `q` started (R205, R206). -/
def writeStarted (aw dw : Nat) (q : Nat × Nat) (s : State) : State :=
  loadExchange (writeFrameBits s.cfg aw dw q.1 (subWords q.2 s)) 0 0 (some dw) s

theorem startWrite_starts {s : State} {aw dw : Nat} {q : Nat × Nat} (hops : DistinctOpcodes s.cfg)
    (hg : granted s = true) (hq : q.1 < 2 ^ aw) (hws : ∀ w ∈ s.cmd.wq, w < 2 ^ dw) :
    startWrite aw dw q s = .next (writeStarted aw dw q s) := by
  have hsub : ∀ w ∈ subWords q.2 s, w < 2 ^ dw := fun w hw => hws w (List.mem_of_mem_drop (List.mem_of_mem_take hw))
  rw [startWrite, encode_writeFrame hq hsub, writeStarted, writeFrameBits, List.append_assoc]
  exact xstart_opcodeBits hops.write_nop hg _ _ _ _

/-- The command registers of a WRITE of `ws` from `a` on that has sent `d` words and stands at sub-transfer `k`. -/
def writeRegs (a : Nat) (ws : List WriteWord) (k d : Nat) : CommandRegs :=
  { op := some .writeCmd, addr := some a, count := some ws.length, wq := ws.map wordValue, rq := [], ki := k,
    doneWords := d }

section Granted

variable {s : State} {aw dw a : Nat} {ws : List WriteWord} (hg : granted s = true) (hl : s.lc = .ready)
  (haw : s.aw = some aw) (hdw : s.dw = some dw)
include hg hl haw hdw

/-- WRITE past its checks starts its first sub-transfer (R201). -/
theorem exec_writeCmd_valid {q : Nat × Nat} {rest : List (Nat × Nat)} (hops : DistinctOpcodes s.cfg)
    (hrange : writeInRange aw dw a ws = true) (hstarts : startsEncodable aw (plan s.cfg.chunkWords a ws.length) = true)
    (hplan : plan s.cfg.chunkWords a ws.length = q :: rest) :
    exec (.writeCmd a ws) s = .next (writeStarted aw dw q { s with cmd := writeRegs a ws 0 0 }) := by
  obtain ⟨-, -, hfits⟩ := writeInRange_iff.1 hrange
  have hq : q.1 < 2 ^ aw := startsEncodable_mem hstarts (by simp [hplan])
  have hvalid : (writeInRange aw dw a ws && startsEncodable aw (q :: rest)) = true := by
    rw [hrange, ← hplan, hstarts]; rfl
  have hrun : exec (.writeCmd a ws) s = startWrite aw dw q (beginTransfer (latch (.writeCmd a ws) s)) := by
    show execWrite a ws s = _
    simp only [execWrite, hg, isReady, hl, beq_self_eq_true, haw, hdw, hplan, hvalid, if_true]
  rw [hrun]
  exact startWrite_starts (s := { s with cmd := writeRegs a ws 0 0 }) hops hg hq (map_wordValue_lt hfits)

/-- WRITE that fails its checks returns `OutOfRange` (R203, R232). -/
theorem exec_writeCmd_invalid
    (hv : (writeInRange aw dw a ws && startsEncodable aw (plan s.cfg.chunkWords a ws.length)) = false) :
    exec (.writeCmd a ws) s = .next (returnedAtOnce s
      { s.cmd with op := some .writeCmd, addr := some a, count := some ws.length, wq := ws.map wordValue }
      .outOfRange .nothing) := by
  show execWrite a ws s = _
  simp only [execWrite, hg, isReady, hl, beq_self_eq_true, haw, hdw, hv, if_true, raiseFailure,
    release_granted (s := latch (.writeCmd a ws) s) hg]
  rfl

end Granted

/-! The bits of a write word -/

/-- The bits a write word is sent as (R101 (c), R205): a natural is encoded, a vector is sent as it is. -/
def wordBits (dw : Nat) : WriteWord → Bits
  | .uint n => natToBits n dw
  | .vec v => v

/-- Encoding the number a fitting word stands for gives the word's own bits (D10). -/
theorem natToBits_wordValue {dw : Nat} {w : WriteWord} (h : wordFits dw w = true) :
    natToBits (wordValue w) dw = wordBits dw w := by
  cases w with
  | uint n => rfl
  | vec v => exact natToBits_toUnsigned_of_length (beq_iff_eq.1 h)

theorem flatMap_wordValue {dw : Nat} {ws : List WriteWord} (h : ∀ w ∈ ws, wordFits dw w = true) :
    ((ws.map wordValue).flatMap fun w => natToBits w dw) = ws.flatMap (wordBits dw) := by
  rw [List.flatMap_map]
  exact List.flatMap_congr fun w hw => natToBits_wordValue (h w hw)

/-- A word fits exactly if the clause for its form holds (R203). -/
theorem wordsFit_iff {dw : Nat} {ws : List WriteWord} : (∀ w ∈ ws, wordFits dw w = true) ↔
    (∀ n, .uint n ∈ ws → n < 2 ^ dw) ∧ ∀ v, .vec v ∈ ws → v.length = dw := by
  constructor
  · exact fun h => ⟨fun n hn => of_decide_eq_true (h _ hn), fun v hv => beq_iff_eq.1 (h _ hv)⟩
  · rintro ⟨huint, hvec⟩ w hw
    cases w with
    | uint n => exact decide_eq_true (huint n hw)
    | vec v => exact beq_iff_eq.2 (hvec v hw)

/-! The obligations -/

/-- Settles O36: the first sub-transfer of the plan carries the first words, a vector's bits unchanged. -/
theorem writeStartsItsFirstExchange : Obligations.WriteStartsItsFirstExchange := by
  intro s aw dw a ws hlegal hg hl haw hdw ha hne huint hvec hstarts
  have hfits : ∀ w ∈ ws, wordFits dw w = true := wordsFit_iff.2 ⟨huint, hvec⟩
  obtain ⟨rest, hplan⟩ := plan_first (legal_chunkWords hlegal) a ws.length
  have hframe : ((ws.map wordValue).take (firstCount s.cfg.chunkWords ws.length)).flatMap (fun w => natToBits w dw) =
      (ws.take (firstCount s.cfg.chunkWords ws.length)).flatMap (wordBits dw) := by
    rw [← List.map_take]
    exact flatMap_wordValue fun w hw => hfits w (List.mem_of_mem_take hw)
  refine (exec_writeCmd_valid hg hl haw hdw (legal_distinctOpcodes hlegal) (writeInRange_iff.2 ⟨ha, hne, hfits⟩)
    (by simpa [startsEncodable] using hstarts) hplan).trans ?_
  exact congrArg (fun data => Host.Outcome.next (exchangeStarted s (writeRegs a ws 0 0)
    (opcodeBits s.cfg.opWrite ++ natToBits a aw ++ data) 0 0 dw)) hframe

/-- Settles O37: each bad operand fails the check; with no chunking only the first start address is checked. -/
theorem writeOutOfRangeSendsNothing : Obligations.WriteOutOfRangeSendsNothing := by
  intro s aw dw a ws hlegal hg hl haw hdw
  refine ⟨fun hbad => ?_, fun _ _ _ hstarts => ?_, fun ha hne hfits hchunk => ?_⟩
  · have hrange : writeInRange aw dw a ws = false := by
      rw [Bool.eq_false_iff, ne_eq, writeInRange_iff, wordsFit_iff]
      rintro ⟨ha, hne, huint, hvec⟩
      obtain h | h | ⟨n, hn, h⟩ | ⟨v, hv, h⟩ := hbad
      · exact absurd ha h.not_gt
      · exact hne h
      · exact absurd (huint n hn) h.not_gt
      · exact h (hvec v hv)
    exact exec_writeCmd_invalid hg hl haw hdw (by rw [hrange]; rfl)
  · exact exec_writeCmd_invalid hg hl haw hdw (by rw [hstarts, Bool.and_false])
  · exact ⟨_, _, exec_writeCmd_starts (legal_distinctOpcodes hlegal) hchunk hg hl haw hdw
      (writeInRange_iff.2 ⟨ha, hne, hfits⟩), rfl⟩

/-- Settles O20: the end of `TX` with the words written to the peer, which commits to no answer. -/
theorem aWriteFrameStoresItsWords : Obligations.AWriteFrameStoresItsWords := by
  intro s a ws hs
  have hrun : exec (.writeFrame a ws) s =
      .next (endTx [] { s with env := { s.env with peer := peerWrite a ws s.env.peer } }) := if_pos hs
  have hsame (hp : s.env.peer = .oracle) : ({ s with env := { s.env with peer := .oracle } } : State) = s := by
    rw [← hp]
  rw [hrun]
  refine ⟨fun hn hp => ?_, fun paw pdw m hn hp => ?_, fun hn hp => ?_, fun paw pdw m hn hp => ?_⟩
  · rw [hp, peerWrite, hsame hp, endTx_exchangeEnded hn]
  · rw [hp, peerWrite, endTx_exchangeEnded (by exact hn)]
  · rw [hp, peerWrite, hsame hp, endTx_receiving hn]
  · rw [hp, peerWrite, endTx_receiving (by exact hn)]

end Sys2Proof.Proofs
end

section
/-! WRITE run bit by bit (spec/44_write.md R201, R205 to R207, spec/46_chunking_cancel.md R233, R240 to R243): as for
READ, the exchange, the step that acts on its outcome and the between-chunks point each follow the call-level loop, and
so does the whole command by induction on the plan. -/

namespace Sys2Proof.Proofs

open Machine Laws

/-! The loop, one sub-transfer at a time -/

/-- The events of the exchange that sends the words `ws` from address `a` on (R205, R206). -/
def writeEvents (c : Config) (aw dw a : Nat) (ws : List Nat) (o : XchgOutcome) : List Event :=
  [.xchg (writeFrameBits c aw dw a ws) 0, .xchgEnd o]

section Loop

variable {c : Config} {aw dw total : Nat} {q : Nat × Nat} {p : List (Nat × Nat)} {e : SubEnv} {envs : List SubEnv}
  {left : List Nat} {events : List Event}

/-- Step 5a: the between-chunks point comes before all that sub-transfer 0 does too (R240, R243). -/
theorem writeLoop_between : writeLoop c aw dw false total (q :: p) (e :: envs) left events =
    if e.cancelReq then
      .returns ⟨.ready, some (aw, dw), .cancelled, .nothing, events ++ [.progress (total - left.length)]⟩
    else writeLoop c aw dw true total (q :: p) (e :: envs) left (events ++ [.progress (total - left.length)]) := by
  cases h : e.cancelReq <;> simp [writeLoop, chunkPoint, h]

section Fits

variable (hq : q.1 < 2 ^ aw) (hleft : ∀ w ∈ left, w < 2 ^ dw)
include hq hleft

theorem encode_subTransfer : encode c aw dw (.writeFrame q.1 (left.take q.2)) =
    some (writeFrameBits c aw dw q.1 (left.take q.2)) :=
  encode_writeFrame hq (fun w hw => hleft w (List.mem_of_mem_take hw)) c

/-- After an `Ok` exchange the loop goes on with the words not yet sent (R201 step 5e). -/
theorem writeLoop_ok {r : Bits} (ho : sendRcv 0 e.answer = .ok r) :
    writeLoop c aw dw true total (q :: p) (e :: envs) left events =
      writeLoop c aw dw false total p envs (left.drop q.2)
        (events ++ writeEvents c aw dw q.1 (left.take q.2) (.ok r)) := by
  simp [writeLoop, chunkPoint, encode_subTransfer hq hleft, ho, writeEvents]

/-- A failed exchange ends the command (R207). -/
theorem writeLoop_failed {o : XchgOutcome} {st : Status} (hf : Failed o st) (ho : sendRcv 0 e.answer = o) :
    writeLoop c aw dw true total (q :: p) (e :: envs) left events =
      .returns ⟨.ready, some (aw, dw), st, .nothing, events ++ writeEvents c aw dw q.1 (left.take q.2) o⟩ := by
  cases hf <;> simp [writeLoop, chunkPoint, encode_subTransfer hq hleft, ho, writeEvents]

end Fits

end Loop

/-! Single steps of a WRITE -/

section Steps

variable {s : State} {p : List (Nat × Nat)} {q : Nat × Nat} (hp : currentPlan s = some p)
  (hop : s.cmd.op = some .writeCmd) (hq : p[s.cmd.ki]? = some q)
include hp hop hq

/-- WRITE counts the words of a sub-transfer and goes on to the next (R201 step 5e). -/
theorem collect_writeCmd_next (hk : s.cmd.ki + 1 < p.length) (r : Bits) :
    collect (.ok r) s = .next (nextSub q.2 [] s) := by
  simp [collect, hop, finishTransfer, hp, hq, finishSub, hk, nextSub]

/-- WRITE returns after the last sub-transfer, without data (R201 step 6). -/
theorem collect_writeCmd_last (hk : s.cmd.ki + 1 = p.length) (r : Bits) :
    collect (.ok r) s = .next (transferReturned q.2 [] .nothing s) := by
  simp [collect, hop, finishTransfer, hp, hq, finishSub, hk, transferReturned]

theorem startCurrent_writeCmd {aw dw : Nat} (haw : s.aw = some aw) (hdw : s.dw = some dw) :
    startCurrent s = startWrite aw dw q s := by
  simp only [startCurrent, hp, haw, hdw, hq, hop]

end Steps

/-! WRITE follows the call-level loop -/

/-- The moves of a WRITE over the sub-transfers of a plan, as the statement writes them. -/
def writeMoves (aw dw : Nat) : Bool → List (Nat × Nat) → List SubEnv → List Move :=
  transferMoves (fun k => 2 + aw + k * dw) fun _ => 0

/-- A WRITE of `ws` from `a` on, granted in `s` to `c` on the oracle peer, that has passed its checks. -/
structure ValidWrite (s : State) (c : Caller) (aw dw a : Nat) (ws : List WriteWord) : Prop where
  opcodes : DistinctOpcodes s.cfg
  busy : s.busy = true
  owner : s.owner = some c
  ready : s.lc = .ready
  addressWidth : s.aw = some aw
  dataWidth : s.dw = some dw
  peer : s.env.peer = .oracle
  fits : ∀ w ∈ ws, wordFits dw w = true
  starts : startsEncodable aw (plan s.cfg.chunkWords a ws.length) = true

/-- The words of `ws` after the first `d`, as they stand in `WQ` (R28, R201). -/
def wordsLeft (ws : List WriteWord) (d : Nat) : List Nat := (ws.map wordValue).drop d

/-- `d` words are sent when the sub-transfers `p` are still to come: together they make `n` (R231, R233). -/
def SentBefore (n d : Nat) (p : List (Nat × Nat)) : Prop := d + (p.map (·.2)).sum = n

theorem SentBefore.next {n d : Nat} {q : Nat × Nat} {p : List (Nat × Nat)} (h : SentBefore n d (q :: p)) :
    SentBefore n (d + q.2) p := by
  rw [SentBefore, List.map_cons, List.sum_cons] at h
  rw [SentBefore]
  omega

section Left

variable {ws : List WriteWord} {d : Nat} {q : Nat × Nat} {p : List (Nat × Nat)}

/-- What the loop has left tells how many words are sent, hence what progress reports (R243). -/
theorem SentBefore.sent (h : SentBefore ws.length d p) : ws.length - (wordsLeft ws d).length = d := by
  rw [SentBefore] at h
  rw [wordsLeft, List.length_drop, List.length_map]
  omega

/-- The next sub-transfer has all of its words (R205). -/
theorem SentBefore.take_length (h : SentBefore ws.length d (q :: p)) : ((wordsLeft ws d).take q.2).length = q.2 := by
  rw [SentBefore, List.map_cons, List.sum_cons] at h
  rw [wordsLeft, List.length_take, List.length_drop, List.length_map]
  omega

theorem wordsLeft_drop (ws : List WriteWord) (d n : Nat) : (wordsLeft ws d).drop n = wordsLeft ws (d + n) :=
  List.drop_drop

end Left

/-- The events of the exchange of the WRITE sub-transfer `q` when `d` words are sent. -/
def subEvents (s : State) (aw dw : Nat) (ws : List WriteWord) (d : Nat) (q : Nat × Nat) (o : XchgOutcome) :
    List Event :=
  writeEvents s.cfg aw dw q.1 ((wordsLeft ws d).take q.2) o

section Write

variable {s t u : State} {c : Caller} {aw dw a k d : Nat} {ws : List WriteWord} {q : Nat × Nat}
  {p : List (Nat × Nat)} {e : SubEnv} {envs : List SubEnv} {ev : List Event} {o : XchgOutcome}

/-- In `t` an exchange of the WRITE granted in `s` has ended with `o`, and the command has not yet acted on it. -/
structure WriteEnded (s : State) (regs : CommandRegs) (ev : List Event) (o : XchgOutcome) (t : State) : Prop where
  during : During s regs ev t
  phase : t.eng.ph = .idle
  outcome : t.eng.outcome = some o

section Unanswered

variable {regs : CommandRegs} {f : Bits} (hu : During s regs ev u) (hpeer : s.env.peer = .oracle)
include hu hpeer

/-- With no bit requested the exchange ends with its frame (R134, R206). -/
theorem During.sentEnds (hf : f ≠ []) (wlen : Nat) :
    ∃ t, MovesLeadTo (.replicate f.length (.tick {}) ++ [.tick {}]) (loadExchange f 0 0 (some wlen) u) t ∧
      WriteEnded s regs (ev ++ [.xchg f 0, .xchgEnd (.ok [])]) (.ok []) t := by
  have hreceived := transmitted_receives (p := f) (n := 0) (skip := 0) (wlen := wlen) (hu.peer.trans hpeer)
  rw [endTx_exchangeEnded (s := transmitted f 0 0 wlen u) rfl] at hreceived
  refine ⟨_, (loadExchange_transmits hf).append hreceived,
    ⟨hu.same.trans ⟨rfl, rfl, rfl, rfl, rfl, rfl, rfl, rfl⟩, hu.peer, hu.bvResult, ?_⟩, rfl, rfl⟩
  show u.history ++ [.xchg f 0] ++ [.xchgEnd (.ok [])] = _
  rw [hu.history, List.append_assoc, List.append_assoc]
  rfl

/-- A failure or an abort before the first bit makes the exchange end with it (R138, R139). -/
theorem During.breaks {m : Move} {o : XchgOutcome} (hm : ∀ t, stepMove m t = breakExchange o 0 t)
    (ho : ∀ r, o ≠ .ok r) (wlen : Nat) :
    ∃ t, MovesLeadTo [m] (loadExchange f 0 0 (some wlen) u) t ∧
      WriteEnded s regs (ev ++ [.xchg f 0, .xchgEnd o]) o t := by
  obtain ⟨t, hmoves, hx⟩ :=
    exchange_breaks (p := f) (n := 0) (skip := 0) (wlen := wlen) (hu.peer.trans hpeer) hm ho
  exact ⟨t, hmoves, hu.exchanged hx, hx.phase, hx.outcome⟩

/-- An exchange that asks for no bit ends with the outcome of `send_rcv`, whatever word length it was given, 0
included (R130, R137). -/
theorem During.unansweredEnds (hf : f ≠ []) (wlen : Nat) (answer : LinkAnswer) :
    ∃ t, MovesLeadTo (linkMoves f.length 0 answer) (loadExchange f 0 0 (some wlen) u) t ∧
      WriteEnded s regs (ev ++ [.xchg f 0, .xchgEnd (sendRcv 0 answer)]) (sendRcv 0 answer) t := by
  cases ho : sendRcv 0 answer with
  | ok r =>
    obtain rfl := List.length_eq_zero_iff.1 (sendRcv_ok_length ho)
    simp only [linkMoves, ho]
    exact hu.sentEnds hpeer hf wlen
  | transportError =>
    simp only [linkMoves, ho]
    exact hu.breaks (o := .transportError) hpeer (fun _ => rfl) nofun wlen
  | cancelled =>
    simp only [linkMoves, ho]
    exact hu.breaks (o := .cancelled) hpeer (fun _ => rfl) nofun wlen

end Unanswered

/-- The exchange of a WRITE sub-transfer, with the frame its words make. -/
theorem During.writeEnds (hu : During s (writeRegs a ws k d) ev u) (hpeer : s.env.peer = .oracle)
    (hd : SentBefore ws.length d (q :: p)) (answer : LinkAnswer) :
    ∃ t, MovesLeadTo (linkMoves (2 + aw + q.2 * dw) 0 answer) (writeStarted aw dw q u) t ∧
      WriteEnded s (writeRegs a ws k d) (ev ++ subEvents s aw dw ws d q (sendRcv 0 answer)) (sendRcv 0 answer) t := by
  have hsub : subWords q.2 u = (wordsLeft ws d).take q.2 := by rw [subWords, hu.same.cmd]; rfl
  have hcfg : u.cfg = s.cfg := hu.same.cfg
  have hlength := writeFrameBits_length s.cfg aw dw q.1 ((wordsLeft ws d).take q.2)
  rw [hd.take_length] at hlength
  have hends := hu.unansweredEnds (f := writeFrameBits s.cfg aw dw q.1 ((wordsLeft ws d).take q.2)) hpeer
    (by rw [← List.length_pos_iff, hlength]; omega) dw answer
  rw [hlength] at hends
  rw [writeStarted, hsub, hcfg]
  exact hends

/-- The registers of a WRITE at sub-transfer `k` of its plan. -/
theorem During.atWriteSub (hu : During s (writeRegs a ws k d) ev u)
    (hq : (plan s.cfg.chunkWords a ws.length)[k]? = some q) :
    u.cmd = writeRegs a ws k d ∧ currentPlan u = some (plan s.cfg.chunkWords a ws.length) ∧
      u.cmd.op = some .writeCmd ∧ (plan s.cfg.chunkWords a ws.length)[u.cmd.ki]? = some q := by
  have hcmd : u.cmd = writeRegs a ws k d := hu.same.cmd
  exact ⟨hcmd, hu.same.currentPlan, by rw [hcmd]; rfl, by rw [hcmd]; exact hq⟩

variable (hv : ValidWrite s c aw dw a ws)
include hv

theorem ValidWrite.wordsLeft_lt (d : Nat) : ∀ w ∈ wordsLeft ws d, w < 2 ^ dw :=
  fun w hw => map_wordValue_lt hv.fits w (List.mem_of_mem_drop hw)

/-- A failed exchange ends WRITE with its status (R207). -/
theorem WriteEnded.fails {st : Status}
    (h : WriteEnded s (writeRegs a ws k d) (ev ++ subEvents s aw dw ws d q o) o t) (hf : Failed o st)
    (hq : q.1 < 2 ^ aw) (ho : sendRcv 0 e.answer = o) :
    RunsAs s c (writeLoop s.cfg aw dw true ws.length (q :: p) (e :: envs) (wordsLeft ws d) ev) [.tick {}] t := by
  have hb : t.busy = true := h.during.same.busy.trans hv.busy
  refine ⟨_, _, writeLoop_failed hq (hv.wordsLeft_lt d) hf ho, .single fun rest => ?_,
    h.during.returned hv.owner hv.ready hv.addressWidth hv.dataWidth st .nothing⟩
  exact (step_collect hb h.phase h.outcome {} rest).trans (collect_failed hf _)

section Ok

variable {r : Bits} (h : WriteEnded s (writeRegs a ws k d) ev (.ok r) t)
  (hq : (plan s.cfg.chunkWords a ws.length)[k]? = some q)
include h hq

/-- After the last sub-transfer WRITE returns `OK` without data (R201 step 6). -/
theorem WriteEnded.returns (hk : k + 1 = (plan s.cfg.chunkWords a ws.length).length) (left : List Nat) :
    RunsAs s c (writeLoop s.cfg aw dw false ws.length [] envs left ev) [.tick {}] t := by
  have hb : t.busy = true := h.during.same.busy.trans hv.busy
  obtain ⟨hcmd, hplan, hop, hsub⟩ := h.during.atWriteSub hq
  have hlast : t.cmd.ki + 1 = (plan s.cfg.chunkWords a ws.length).length := by rw [hcmd]; exact hk
  have hret := (h.during.withRegs
    { t.cmd with rq := t.cmd.rq ++ [], doneWords := t.cmd.doneWords + q.2 } t.eng).returned hv.owner hv.ready
    hv.addressWidth hv.dataWidth .ok .nothing
  refine ⟨_, _, rfl, .single fun rest => ?_, hret⟩
  exact (step_collect hb h.phase h.outcome {} rest).trans
    (collect_writeCmd_last (s := withScript t rest) hplan hop hsub hlast r)

/-- After any other it counts the words and stands before the next (R201 step 5e, R233). -/
theorem WriteEnded.goesOn (hk : k + 1 < (plan s.cfg.chunkWords a ws.length).length) :
    ∃ u, MovesLeadTo [.tick {}] t u ∧ During s (writeRegs a ws (k + 1) (d + q.2)) ev u ∧ u.eng.ph = .idle ∧
      u.eng.outcome = none := by
  have hb : t.busy = true := h.during.same.busy.trans hv.busy
  obtain ⟨hcmd, hplan, hop, hsub⟩ := h.during.atWriteSub hq
  have hmore : t.cmd.ki + 1 < (plan s.cfg.chunkWords a ws.length).length := by rw [hcmd]; exact hk
  have hnext : nextSub q.2 [] t =
      { t with cmd := writeRegs a ws (k + 1) (d + q.2), eng := { t.eng with outcome := none } } := by
    simp [nextSub, hcmd, writeRegs]
  refine ⟨nextSub q.2 [] t, .single fun rest => ?_, ?_, h.phase, rfl⟩
  · exact (step_collect hb h.phase h.outcome {} rest).trans
      (collect_writeCmd_next (s := withScript t rest) hplan hop hsub hmore r)
  · rw [hnext]
    exact h.during.withRegs _ _

end Ok

/-- The between-chunks point: progress, then `Cancelled`, or the exchange of the next sub-transfer (R240 to
R243). -/
theorem ValidWrite.betweenChunks (hu : During s (writeRegs a ws k d) ev u) (hi : u.eng.ph = .idle)
    (ho : u.eng.outcome = none) (hq : (plan s.cfg.chunkWords a ws.length)[k]? = some q)
    (hd : SentBefore ws.length d (q :: p))
    (hgo : ∀ v, During s (writeRegs a ws k d) (ev ++ [.progress d]) v →
      RunsAs s c (writeLoop s.cfg aw dw true ws.length (q :: p) (e :: envs) (wordsLeft ws d) (ev ++ [.progress d]))
        (writeMoves aw dw true (q :: p) (e :: envs)) (writeStarted aw dw q v)) :
    RunsAs s c (writeLoop s.cfg aw dw false ws.length (q :: p) (e :: envs) (wordsLeft ws d) ev)
      (writeMoves aw dw false (q :: p) (e :: envs)) u := by
  have hb : u.busy = true := hu.same.busy.trans hv.busy
  have hpoint : During s (writeRegs a ws k d) (ev ++ [.progress d]) (emitProgress u) := hu.progress
  have hstep (rest : List Move) := step_betweenChunks hb hi ho { cancelReq := e.cancelReq } rest
  rw [writeLoop_between, hd.sent, writeMoves, transferMoves_between]
  cases hcancel : e.cancelReq with
  | true =>
    rw [hcancel] at hstep
    exact ⟨_, _, rfl, .single fun rest => (hstep rest).trans rfl,
      hpoint.returned hv.owner hv.ready hv.addressWidth hv.dataWidth .cancelled .nothing⟩
  | false =>
    rw [hcancel] at hstep
    obtain ⟨hcmd, hplan, hop, hsub⟩ := hu.atWriteSub hq
    refine (hgo _ hpoint).after (.single fun rest => (hstep rest).trans ?_)
    have hstart := startCurrent_writeCmd (s := emitProgress (withScript u rest)) hplan hop hsub
      (hu.same.aw.trans hv.addressWidth) (hu.same.dw.trans hv.dataWidth)
    have hops : DistinctOpcodes u.cfg := hu.same.cfg ▸ hv.opcodes
    have hwq : ∀ w ∈ u.cmd.wq, w < 2 ^ dw := by rw [hcmd]; exact map_wordValue_lt hv.fits
    exact hstart.trans (startWrite_starts (s := emitProgress (withScript u rest)) hops
      ((granted_iff _).2 ⟨hb, hi, ho⟩) (startsEncodable_mem hv.starts (List.mem_of_getElem? hq)) hwq)

/-- One exchange of WRITE; what follows an `Ok` outcome is left to `hok`. -/
theorem ValidWrite.exchange (hu : During s (writeRegs a ws k d) ev u)
    (hq : (plan s.cfg.chunkWords a ws.length)[k]? = some q) (hd : SentBefore ws.length d (q :: p))
    (hok : ∀ r t, WriteEnded s (writeRegs a ws k d) (ev ++ subEvents s aw dw ws d q (.ok r)) (.ok r) t →
      RunsAs s c (writeLoop s.cfg aw dw false ws.length p envs (wordsLeft ws (d + q.2))
          (ev ++ subEvents s aw dw ws d q (.ok r)))
        ([.tick {}] ++ writeMoves aw dw false p envs) t) :
    RunsAs s c (writeLoop s.cfg aw dw true ws.length (q :: p) (e :: envs) (wordsLeft ws d) ev)
      (writeMoves aw dw true (q :: p) (e :: envs)) (writeStarted aw dw q u) := by
  have hfit : q.1 < 2 ^ aw := startsEncodable_mem hv.starts (List.mem_of_getElem? hq)
  obtain ⟨t, hmoves, hended⟩ := hu.writeEnds (aw := aw) (dw := dw) hv.peer hd e.answer
  obtain ⟨r, ho⟩ | ⟨st, hf⟩ := ok_or_failed (sendRcv 0 e.answer)
  · rw [ho] at hended
    rw [writeLoop_ok hfit (hv.wordsLeft_lt d) ho, wordsLeft_drop, writeMoves, transferMoves_ok ho, exchangeMoves_eq,
      List.append_assoc]
    exact (hok r t hended).after hmoves
  · rw [writeMoves, transferMoves_failed hf rfl, exchangeMoves_eq]
    exact (hended.fails hv hf hfit rfl).after hmoves

/-- WRITE from the start of the exchange of a sub-transfer on, by induction on the sub-transfers after it. -/
theorem ValidWrite.runs (hu : During s (writeRegs a ws k d) ev u)
    (hp : (plan s.cfg.chunkWords a ws.length).drop k = q :: p) (hd : SentBefore ws.length d (q :: p))
    (hlen : envs.length = p.length) :
    RunsAs s c (writeLoop s.cfg aw dw true ws.length (q :: p) (e :: envs) (wordsLeft ws d) ev)
      (writeMoves aw dw true (q :: p) (e :: envs)) (writeStarted aw dw q u) := by
  induction p generalizing q e envs k d ev u with
  | nil =>
    obtain ⟨hq, hk⟩ := getElem?_of_drop_eq_cons hp
    obtain rfl := List.length_eq_zero_iff.1 hlen
    exact hv.exchange hu hq hd fun r t hended => hended.returns hv hq hk.symm _
  | cons q' p ih =>
    obtain ⟨hq, hk⟩ := getElem?_of_drop_eq_cons hp
    obtain ⟨e', envs, rfl⟩ := List.exists_cons_of_length_eq_add_one hlen
    have hrest : (plan s.cfg.chunkWords a ws.length).drop (k + 1) = q' :: p := by rw [← List.tail_drop, hp]; rfl
    obtain ⟨hq', -⟩ := getElem?_of_drop_eq_cons hrest
    refine hv.exchange hu hq hd fun r t hended => ?_
    obtain ⟨v, hmove, hv', hi, ho⟩ := hended.goesOn hv hq (by rw [hk, List.length_cons]; omega)
    exact (hv.betweenChunks hv' hi ho hq' hd.next fun w hw => ih hw hrest hd.next (Nat.succ.inj hlen)).after hmove

end Write

/-- Settles O38: the first exchange starts at the grant, and from there on WRITE follows the loop. -/
theorem writeRunsAsTheCallLevelRuleSays : Obligations.WriteRunsAsTheCallLevelRuleSays := by
  intro s c aw dw a ws envs rest hlegal hg howner hl haw hdw hpeer hrange hstarts hlen
  obtain ⟨hb, -⟩ := (granted_iff s).1 hg
  obtain ⟨-, -, hfits⟩ := writeInRange_iff.1 hrange
  have hchunk := legal_chunkWords hlegal
  obtain ⟨p, hplan⟩ := plan_first hchunk a ws.length
  have hops := legal_distinctOpcodes hlegal
  have hv : ValidWrite s c aw dw a ws := ⟨hops, hb, howner, hl, haw, hdw, hpeer, hfits, hstarts⟩
  have hnone : SentBefore ws.length 0 (plan s.cfg.chunkWords a ws.length) :=
    (Nat.zero_add _).trans (plan_words hchunk a ws.length)
  obtain ⟨e, envs, rfl⟩ := List.exists_cons_of_length_eq_add_one (hlen.trans (congrArg List.length hplan))
  have hcall : callWrite s.cfg aw dw a ws (e :: envs) = writeLoop s.cfg aw dw true ws.length
      (plan s.cfg.chunkWords a ws.length) (e :: envs) (wordsLeft ws 0) [] :=
    if_pos (by rw [hrange, hstarts]; rfl)
  rw [hplan] at hlen hcall hnone
  obtain ⟨res, u, hloop, hmoves, hret⟩ := hv.runs (k := 0) (e := e) (during_granted s (writeRegs a ws 0 0)) hplan
    hnone (Nat.succ.inj hlen)
  rw [hplan]
  exact ⟨_, res, withScript u rest, exec_writeCmd_valid hg hl haw hdw hops hrange hstarts hplan, hcall.trans hloop,
    hmoves rest, hret, rfl⟩

end Sys2Proof.Proofs
end

section
/-! NOP (spec/45_nop.md): a NOP frame received leaves the peer alone (R222), and none is ever emitted (R220, R221):
of all steps only the start of an exchange records one, and XSTART refuses a NOP frame. -/

namespace Sys2Proof.Proofs

open Machine Laws

/-! A NOP frame received -/

theorem exec_nop_sent {s : State} (h : frameSent s = true) : exec .nop s = .next (endTx [] s) := if_pos h

/-- Settles O21: the end of `TX` with nothing committed, the peer not being written. -/
theorem aNopFrameIsIgnoredByThePeer : Obligations.ANopFrameIsIgnoredByThePeer := by
  intro s hs
  rw [exec_nop_sent hs]
  refine ⟨fun hn => ?_, fun hn => ?_⟩
  · rw [endTx_receiving hn]
  · rw [endTx_exchangeEnded hn]

/-! A NOP frame emitted -/

theorem opcodeBits_append_take (op : BitVec 2) (rest : Bits) : (opcodeBits op ++ rest).take 2 = opcodeBits op :=
  List.take_left' (opcodeBits_length op)

theorem xstart_nop {s : State} (hg : granted s = true) (rest : Bits) (n k : Nat) (w : Option Nat) :
    xstart (opcodeBits s.cfg.opNop ++ rest) n k w s = .refused .nopFrame := by
  rw [xstart, if_pos hg, if_pos (opcodeBits_append_take _ _)]

theorem nopExchanges_append (c : Config) (h k : List Event) :
    nopExchanges c (h ++ k) = nopExchanges c h ++ nopExchanges c k :=
  List.filter_append h k

theorem nopExchanges_xchg {c : Config} {p : Bits} (h : p.take 2 ≠ opcodeBits c.opNop) (n : Nat) :
    nopExchanges c [.xchg p n] = [] := by
  simp [nopExchanges, h]

/-- `t` follows `s` in the same configuration, with no exchange of a NOP frame added to the history. -/
structure EmitsNoNop (s t : State) : Prop where
  cfg : t.cfg = s.cfg
  nops : nopExchanges s.cfg t.history = nopExchanges s.cfg s.history

theorem EmitsNoNop.trans {s t u : State} (h : EmitsNoNop s t) (k : EmitsNoNop t u) : EmitsNoNop s u where
  cfg := k.cfg.trans h.cfg
  nops := by
    have hk := k.nops
    rw [h.cfg] at hk
    exact hk.trans h.nops

/-- What records nothing emits nothing. -/
theorem EmitsNoNop.silent {s t : State} (hc : t.cfg = s.cfg) (hh : t.history = s.history) : EmitsNoNop s t :=
  ⟨hc, congrArg _ hh⟩

/-- What records one event emits no NOP frame if that event is no exchange of one. -/
theorem EmitsNoNop.event {s t : State} {e : Event} (hc : t.cfg = s.cfg) (hh : t.history = s.history ++ [e])
    (he : nopExchanges s.cfg [e] = []) : EmitsNoNop s t :=
  ⟨hc, by rw [hh, nopExchanges_append, he, List.append_nil]⟩

/-! The start of an exchange -/

/-- XSTART records an exchange only after its own check of the opcode (R221). -/
theorem xstart_emitsNoNop {p : Bits} {n k : Nat} {w : Option Nat} {s t : State} (h : xstart p n k w s = .next t) :
    EmitsNoNop s t := by
  obtain ⟨-, hp, rfl⟩ := xstart_next h
  exact .event rfl rfl (nopExchanges_xchg hp n)

theorem startSize_emitsNoNop {s t : State} (h : startSize s = .next t) : EmitsNoNop s t := by
  rw [startSize, encode_size] at h
  exact xstart_emitsNoNop h

theorem startRead_emitsNoNop {aw dw : Nat} {q : Nat × Nat} {s t : State} (h : startRead aw dw q s = .next t) :
    EmitsNoNop s t := by
  unfold startRead at h
  split at h
  · exact xstart_emitsNoNop h
  · cases h

theorem startWrite_emitsNoNop {aw dw : Nat} {q : Nat × Nat} {s t : State} (h : startWrite aw dw q s = .next t) :
    EmitsNoNop s t := by
  unfold startWrite at h
  split at h
  · exact xstart_emitsNoNop h
  · cases h

/-! The other shared operations -/

theorem release_emitsNoNop (st : Status) (d : RetData) (s : State) : EmitsNoNop s (release st d s) :=
  .event rfl rfl rfl

theorem latch_emitsNoNop (c : Command) (s : State) : EmitsNoNop s (latch c s) :=
  .silent (latch_cfg c s) (latch_history c s)

theorem beginTransfer_emitsNoNop (s : State) : EmitsNoNop s (beginTransfer s) := .silent rfl rfl

theorem emitProgress_emitsNoNop (s : State) : EmitsNoNop s (emitProgress s) := .event rfl rfl rfl

theorem endTx_emitsNoNop (ans : List (Option Bool)) (s : State) : EmitsNoNop s (endTx ans s) := by
  by_cases hn : 0 < s.eng.rxn
  · rw [endTx_sampling hn]; exact .silent rfl rfl
  · rw [endTx_done (by omega)]; exact .event rfl rfl rfl

/-! Commands and the sequencer -/

/-- A granted command returns at once or has XSTART start its first exchange. -/
theorem exec_command_emitsNoNop {c : Command} {s t : State} (h : exec c.toInstr s = .next t) : EmitsNoNop s t := by
  have hlatch := latch_emitsNoNop c s
  have hreturn (st : Status) (d : RetData) : EmitsNoNop s (release st d (latch c s)) :=
    hlatch.trans (release_emitsNoNop st d _)
  have hbegin : EmitsNoNop s (beginTransfer (latch c s)) := hlatch.trans (beginTransfer_emitsNoNop _)
  cases c with
  | initCmd =>
    obtain ⟨-, -, hs⟩ := execInit_next h
    exact hlatch.trans (startSize_emitsNoNop hs)
  | sizeqCmd =>
    obtain ⟨-, ⟨-, rfl⟩ | ⟨-, aw, dw, -, -, rfl⟩⟩ := execSizeq_next h
    · exact hreturn _ _
    · exact hreturn _ _
  | readCmd a n =>
    obtain ⟨-, ⟨-, rfl⟩ | ⟨-, aw, dw, -, -, ⟨-, rfl⟩ | ⟨-, q, rest, -, hs⟩⟩⟩ := execRead_next h
    · exact hreturn _ _
    · exact hreturn _ _
    · exact hbegin.trans (startRead_emitsNoNop hs)
  | writeCmd a ws =>
    obtain ⟨-, ⟨-, rfl⟩ | ⟨-, aw, dw, -, -, ⟨-, rfl⟩ | ⟨-, q, rest, -, hs⟩⟩⟩ := execWrite_next h
    · exact hreturn _ _
    · exact hreturn _ _
    · exact hbegin.trans (startWrite_emitsNoNop hs)

theorem finishTransfer_emitsNoNop {r : Bool} {s t : State} (h : finishTransfer r s = .next t) : EmitsNoNop s t := by
  obtain ⟨p, q, -, -, rfl⟩ := finishTransfer_next h
  obtain ⟨-, he⟩ | ⟨d, he⟩ := finishSub_cases p.length q.2 (if r then s.eng.xq else []) r s
  · rw [he]; exact .silent rfl rfl
  · rw [he]; exact .event rfl rfl rfl

theorem collect_emitsNoNop {o : XchgOutcome} {s t : State} (h : collect o s = .next t) : EmitsNoNop s t := by
  obtain ⟨-, rfl⟩ | ⟨-, rfl⟩ | ⟨r, -, -, rfl⟩ | ⟨r, -, -, hs⟩ | ⟨r, -, -, hs⟩ := collect_next h
  · exact release_emitsNoNop _ _ s
  · exact release_emitsNoNop _ _ s
  · obtain ⟨aw, dw, -, -, he⟩ | ⟨aw, dw, -, -, -, he⟩ | ⟨-, he⟩ := finishInit_cases s
    all_goals rw [he]; exact .event rfl rfl rfl
  · exact finishTransfer_emitsNoNop hs
  · exact finishTransfer_emitsNoNop hs

theorem betweenChunks_emitsNoNop {b : Bool} {s t : State} (h : betweenChunks b s = .next t) : EmitsNoNop s t := by
  have hprogress := emitProgress_emitsNoNop s
  obtain ⟨-, rfl⟩ | ⟨-, hs⟩ := betweenChunks_next h
  · exact hprogress.trans (release_emitsNoNop _ _ _)
  · obtain ⟨p, aw, dw, q, -, -, -, -, ⟨-, hs⟩ | ⟨-, hs⟩⟩ := startCurrent_next hs
    · exact hprogress.trans (startRead_emitsNoNop hs)
    · exact hprogress.trans (startWrite_emitsNoNop hs)

theorem idleStep_emitsNoNop {x : Inputs} {s t : State} (h : idleStep x s = .next t) : EmitsNoNop s t := by
  obtain ⟨-, o, -, hs⟩ | ⟨-, -, hs⟩ | ⟨-, i, c, cmd, -, hs⟩ | ⟨-, -, rfl⟩ := idleStep_next h
  · exact collect_emitsNoNop hs
  · exact betweenChunks_emitsNoNop hs
  · have hgrant : EmitsNoNop s (grant i c s) := .event rfl rfl rfl
    exact hgrant.trans (exec_command_emitsNoNop hs)
  · exact .silent rfl rfl

theorem blockStep_emitsNoNop {x : Inputs} {s t : State} (h : blockStep x s = .next t) : EmitsNoNop s t := by
  obtain ⟨-, -, rfl⟩ | ⟨-, -, hs⟩ | ⟨-, -, rfl⟩ | ⟨-, -, rfl⟩ | ⟨-, hs⟩ := blockStep_next h
  · exact .silent rfl rfl
  · obtain ⟨-, ans, p, -, rfl⟩ := receiveFrame_endTx hs
    have hpeer : EmitsNoNop s { s with env := { s.env with peer := p } } := .silent rfl rfl
    exact hpeer.trans (endTx_emitsNoNop ans _)
  · exact .silent rfl rfl
  · exact .event rfl rfl rfl
  · exact idleStep_emitsNoNop hs

/-- No move emits a NOP frame: every move but a tick records no exchange at all. -/
theorem stepMove_emitsNoNop {m : Move} {s t : State} (h : stepMove m s = .next t) : EmitsNoNop s t := by
  cases m with
  | tick x => exact blockStep_emitsNoNop h
  | call c cmd => obtain ⟨-, rfl⟩ := present_next h; exact .event rfl rfl rfl
  | linkFail j | linkAbort j =>
    obtain ⟨-, rfl⟩ | ⟨-, p, -, rfl⟩ := breakExchange_next h
    · exact .silent rfl rfl
    · exact .event rfl rfl rfl
  | reset => obtain ⟨-, -, rfl⟩ := resetBlock_next h; exact .silent rfl rfl
  | silence => cases h; exact .silent rfl rfl
  | evaluate p => obtain ⟨v, rfl⟩ := exec_primitive_next h; exact .silent rfl rfl

/-- Settles O11: XSTART refuses a NOP frame, and no other operation records an exchange. -/
theorem noStepEmitsANopFrame : Obligations.NoStepEmitsANopFrame := by
  refine ⟨fun rest n skip wlen s hg => xstart_nop hg rest n skip wlen, fun s t hstep => ?_⟩
  obtain ⟨script, draws, hu⟩ := takeMove_frame s
  rw [step_eq, hu] at hstep
  exact (stepMove_emitsNoNop hstep).nops

end Sys2Proof.Proofs
end

section
/-! The sub-transfer plan (spec/46_chunking_cancel.md R231, R232), what chunking costs in bits (R234), and that on the
reference peer's memory it makes no difference (R235): a plan is consecutive, and reading or writing word after word
may be cut anywhere. -/

namespace Sys2Proof.Proofs

open Machine Laws

/-! The sub-transfers of a plan -/

/-- Rounding up: `K - 1` chunks are too few for the words, `K` chunks are enough (R231). -/
theorem chunkCount_bounds {c n : Nat} (hc : 1 ≤ c) (hn : c < n) :
    (chunkCount c n - 1) * c < n ∧ n ≤ chunkCount c n * c := by
  have hcovered : chunkCount c n * c ≤ n + c - 1 := Nat.div_mul_le_self _ _
  have hreached : n + c - 1 < chunkCount c n * c + c := Nat.lt_div_mul_add hc
  rw [Nat.sub_one_mul]
  omega

/-- Each sub-transfer has 1 to `c` words, and `c` words unless it is the last (R231). -/
theorem chunkAt_words {a n c j : Nat} (hc : 1 ≤ c) (hn : c < n) :
    1 ≤ (chunkAt a n c j).2 ∧ (chunkAt a n c j).2 ≤ c ∧ (j + 1 < chunkCount c n → (chunkAt a n c j).2 = c) := by
  by_cases hj : j + 1 < chunkCount c n
  · have hfull : (chunkAt a n c j).2 = c := if_pos hj
    exact ⟨hc.trans_eq hfull.symm, hfull.le, fun _ => hfull⟩
  · obtain ⟨hfew, henough⟩ := chunkCount_bounds hc hn
    have hlast : (chunkAt a n c j).2 = n - (chunkCount c n - 1) * c := if_neg hj
    rw [hlast]
    refine ⟨Nat.sub_pos_of_lt hfew, ?_, fun h => absurd h hj⟩
    rw [Nat.sub_one_mul]
    omega

/-- The start addresses rise, so all are encodable when the last one is (R232). -/
theorem startsEncodable_plan_cut {c n : Nat} (hc : 1 ≤ c) (hn : c < n) (aw a : Nat) :
    startsEncodable aw (plan (some c) a n) = true ↔ a + (chunkCount c n - 1) * c < 2 ^ aw := by
  have hcount := two_le_chunkCount hc hn
  simp only [plan_cut hn, startsEncodable, List.all_eq_true, List.forall_mem_map, List.mem_range,
    decide_eq_true_eq]
  constructor
  · exact fun hall => hall (chunkCount c n - 1) (by omega)
  · intro hlast j hj
    have hle : j * c ≤ (chunkCount c n - 1) * c := Nat.mul_le_mul_right c (by omega)
    exact lt_of_le_of_lt (Nat.add_le_add_left hle a) hlast

/-- Settles O40: the plan is `chunkAt` at the indices below `K = ceil(n / c)`. -/
theorem thePlanCoversTheCommand : Obligations.ThePlanCoversTheCommand := by
  intro a n c aw hc hn
  obtain ⟨hfew, henough⟩ := chunkCount_bounds hc hn
  refine ⟨chunkCount c n, by simp [plan_cut hn], two_le_chunkCount hc hn, hfew, henough,
    plan_words (by simpa using Nat.ne_of_gt hc) a n, fun j hj => ?_, startsEncodable_plan_cut hc hn aw a⟩
  refine ⟨(chunkAt a n c j).2, ?_, chunkAt_words hc hn⟩
  rw [plan_cut hn, List.getElem?_map, List.getElem?_range hj]
  rfl

/-! What chunking costs -/

/-- Every sub-transfer of a READ requests one word-time more than it has words (R186, R234). -/
theorem sum_responseBits (p : List (Nat × Nat)) (dw : Nat) :
    (p.map fun q => (q.2 + 1) * dw).sum = ((p.map (·.2)).sum + p.length) * dw := by
  induction p with
  | nil => simp
  | cons q p ih => simp only [List.map_cons, List.sum_cons, List.length_cons, ih]; ring

/-- Every sub-transfer of a WRITE sends an opcode and an address (R94, R234). -/
theorem sum_frameBits (p : List (Nat × Nat)) (aw dw : Nat) :
    (p.map fun q => 2 + aw + q.2 * dw).sum = p.length * (2 + aw) + (p.map (·.2)).sum * dw := by
  induction p with
  | nil => simp
  | cons q p ih => simp only [List.map_cons, List.sum_cons, List.length_cons, ih]; ring

/-- Settles O41: the bits of any sub-transfers, and a plan has the command's words in all. -/
theorem chunkingCostsOneWordPerSubTransfer : Obligations.ChunkingCostsOneWordPerSubTransfer := by
  intro chunkWords a n aw dw hchunk
  rw [sum_responseBits, sum_frameBits, plan_words hchunk]
  exact ⟨rfl, rfl⟩

/-! Chunks of the reference memory -/

/-- A read may be cut anywhere, wrapping or not (R68). -/
theorem memRead_add (paw pdw : Nat) (m : Memory) (a i j : Nat) :
    memRead paw pdw m a (i + j) = memRead paw pdw m a i ++ memRead paw pdw m (a + i) j := by
  induction i generalizing a with
  | zero => simp [memRead]
  | succ i ih => rw [Nat.succ_add, memRead, ih, memRead, List.cons_append, Nat.add_assoc, Nat.add_comm 1 i]

/-- A write may be cut anywhere, wrapping or not (R69). -/
theorem memWrite_append (paw : Nat) (m : Memory) (a : Nat) (vs ws : List Nat) :
    memWrite paw m a (vs ++ ws) = memWrite paw (memWrite paw m a vs) (a + vs.length) ws := by
  induction vs generalizing m a with
  | nil => rfl
  | cons v vs ih => rw [List.cons_append, memWrite, ih, memWrite, List.length_cons, Nat.add_assoc, Nat.add_comm 1]

/-- Consecutive sub-transfers read what one read of all their words does (R235). -/
theorem memRead_consecutive (paw pdw : Nat) (m : Memory) {a : Nat} {p : List (Nat × Nat)} (hp : Consecutive a p) :
    p.flatMap (fun q => memRead paw pdw m q.1 q.2) = memRead paw pdw m a (p.map (·.2)).sum := by
  induction p generalizing a with
  | nil => rfl
  | cons q p ih =>
    obtain ⟨hstart, hrest⟩ := hp
    rw [List.flatMap_cons, ih hrest, hstart, List.map_cons, List.sum_cons, memRead_add]

/-- Consecutive sub-transfers, of which `k` words are already written, write what one write of all their words
does (R235). -/
theorem memWrite_consecutive (paw : Nat) (m : Memory) {a k : Nat} {ws : List Nat} {p : List (Nat × Nat)}
    (hp : Consecutive (a + k) p) (hlen : (p.map (·.2)).sum = (ws.drop k).length) :
    p.foldl (fun m q => memWrite paw m q.1 ((ws.drop (q.1 - a)).take q.2)) m =
      memWrite paw m (a + k) (ws.drop k) := by
  induction p generalizing m k with
  | nil => rw [List.length_eq_zero_iff.1 hlen.symm]; rfl
  | cons q p ih =>
    obtain ⟨hstart, hrest⟩ := hp
    rw [List.map_cons, List.sum_cons] at hlen
    have hfirst : ((ws.drop k).take q.2).length = q.2 := List.length_take_of_le (by omega)
    have hleft : (p.map (·.2)).sum = (ws.drop (k + q.2)).length := by
      rw [← List.drop_drop, List.length_drop]; omega
    rw [List.foldl_cons, ih _ (by rwa [← Nat.add_assoc]) hleft, hstart, Nat.add_sub_cancel_left]
    conv_rhs => rw [← List.take_append_drop q.2 (ws.drop k), memWrite_append, hfirst, List.drop_drop]
    rw [Nat.add_assoc]

/-- Settles O42: a plan is consecutive and has all the words. -/
theorem chunkedAndUnchunkedTransfersAgree : Obligations.ChunkedAndUnchunkedTransfersAgree := by
  intro chunkWords paw pdw a m ws hchunk
  have hp := plan_consecutive chunkWords a ws.length
  have hwords := plan_words hchunk a ws.length
  refine ⟨?_, memWrite_consecutive (k := 0) paw m hp hwords⟩
  rw [memRead_consecutive paw pdw m hp, hwords]

end Sys2Proof.Proofs
end

section
/-! The between-chunks point (spec/46_chunking_cancel.md R240 to R243, R233): the one step that samples `cancel_req`. -/

namespace Sys2Proof.Proofs

open Machine Laws

/-- A READ or WRITE past its validation starts the exchange its registers describe (R181, R201 steps 5b, 5c). -/
theorem startCurrent_starts {s : State} (hops : DistinctOpcodes s.cfg) (hg : granted s = true)
    (hc : commandOk s = true) (hop : s.cmd.op ≠ some .initCmd) :
    ∃ i n skip wlen f, currentExchange s = some (i, n, skip, wlen) ∧
      encode s.cfg (s.aw.getD 0) (s.dw.getD 0) i = some f ∧
      startCurrent s = .next (loadExchange f n skip (some wlen) s) := by
  obtain hinit | ⟨hop, p, n, aw, dw, hat⟩ := commandOk_cases hc
  · exact absurd hinit hop
  · obtain ⟨q, hq, hmem⟩ := hat.current
    have hstart := startsEncodable_mem hat.starts hmem
    rw [hat.addressWidth, hat.dataWidth]
    obtain hop | hop := hop
    · refine ⟨_, _, _, _, _, currentExchange_read hop hat.plan hat.dataWidth hq, encode_readFrame hstart _ _, ?_⟩
      rw [startCurrent_readCmd hat.plan hop hq hat.addressWidth hat.dataWidth]
      exact startRead_starts hops hg hstart
    · have hsub : ∀ w ∈ subWords q.2 s, w < 2 ^ dw :=
        fun w hw => hat.wq w (List.mem_of_mem_drop (List.mem_of_mem_take hw))
      refine ⟨_, _, _, _, _, currentExchange_write hop hat.plan hat.dataWidth hq,
        encode_writeFrame hstart hsub _, ?_⟩
      rw [startCurrent_writeCmd hat.plan hop hq hat.addressWidth hat.dataWidth]
      exact startWrite_starts hops hg hstart hat.wq

/-- Settles O43: progress leaves the command as it is, which then returns or starts its current exchange. -/
theorem theBetweenChunksPointReportsThenCancelsOrGoesOn :
    Obligations.TheBetweenChunksPointReportsThenCancelsOrGoesOn := by
  intro s x rest hinv hb hi ho
  have hstep := step_betweenChunks hb hi ho x rest
  have hg : granted (emitProgress (withScript s rest)) = true := (granted_iff _).2 ⟨hb, hi, ho⟩
  refine ⟨fun hx => ?_, fun hx => ?_⟩
  · rw [hstep, hx, betweenChunks, if_pos rfl, raiseFailure, release_granted hg]
    rfl
  · obtain ⟨hground, hcommand⟩ := (inv_iff s).1 hinv
    obtain ⟨hc, hstage⟩ := hcommand hb
    have hsame : SameCommand s (emitProgress (withScript s rest)) := ⟨rfl, rfl, rfl, rfl, rfl, rfl, rfl, rfl⟩
    obtain ⟨i, n, skip, wlen, f, hcurrent, hf, hstarts⟩ := startCurrent_starts
      (s := emitProgress (withScript s rest)) (legal_distinctOpcodes hground.legal) hg
      (hsame.commandOk.trans hc) (hstage.op_ne_init hi ho)
    refine ⟨i, n, skip, wlen, f, hsame.currentExchange.symm.trans hcurrent, hf, ?_⟩
    rw [hstep, hx]
    exact hstarts

/-- Away from a between-chunks point a step of the block depends on two of its inputs only: the bit in `RX`, the choice
of GRANT in `IDLE` (R135, R240, R270). -/
theorem blockStep_ignores_cancelReq {s : State} {x y : Inputs} (hbit : x.rxBit = y.rxBit) (hpick : x.pick = y.pick)
    (h : ¬(s.busy = true ∧ s.eng.ph = .idle ∧ s.eng.outcome = none)) : blockStep x s = blockStep y s := by
  cases hp : s.eng.ph with
  | tx => simp only [blockStep, hp]
  | rx => simp only [blockStep, hp, hbit]
  | idle =>
    simp only [blockStep, hp, idleStep, hpick]
    cases hb : s.busy with
    | false => rfl
    | true =>
      cases ho : s.eng.outcome with
      | none => exact absurd ⟨hb, hp, ho⟩ h
      | some o => rfl

/-- Settles O44: the step is the block's, and the block looks at `cancel_req` at between-chunks points only. -/
theorem cancelRequestIsSampledNowhereElse : Obligations.CancelRequestIsSampledNowhereElse := by
  intro s x y rest hbit hpick h
  rw [step_cons, step_cons]
  exact blockStep_ignores_cancelReq (s := withScript s rest) hbit hpick h

end Sys2Proof.Proofs
end

section
/-! How a command returns (spec/60_exceptions.md R255 to R257, R262, R272): either its checks end it in the step that
grants it, or it ends when the block acts on the outcome of an exchange or at a between-chunks point. No other step
records a return. -/

namespace Sys2Proof.Proofs

open Machine Laws

/-! The steps that return nothing -/

/-- `t` follows `s` with events none of which is a return. -/
def NoReturn (s t : State) : Prop :=
  ∃ ev, t.history = s.history ++ ev ∧ ∀ o st d, .ret o st d ∉ ev

theorem NoReturn.silent {s t : State} (h : t.history = s.history) : NoReturn s t :=
  ⟨[], by rw [h, List.append_nil], fun _ _ _ => List.not_mem_nil⟩

theorem NoReturn.event {s t : State} {e : Event} (h : t.history = s.history ++ [e])
    (he : ∀ o st d, .ret o st d ≠ e) : NoReturn s t :=
  ⟨[e], h, fun o st d hm => he o st d (List.mem_singleton.1 hm)⟩

theorem NoReturn.trans {s t u : State} (h : NoReturn s t) (k : NoReturn t u) : NoReturn s u := by
  obtain ⟨ev, ht, hev⟩ := h
  obtain ⟨ev', hu, hev'⟩ := k
  refine ⟨ev ++ ev', by rw [hu, ht, List.append_assoc], fun o st d hm => ?_⟩
  exact (List.mem_append.1 hm).elim (hev o st d) (hev' o st d)

theorem NoReturn.not_mem {s t : State} (h : NoReturn s t) (o : Option Caller) (st : Status) (d : RetData) :
    .ret o st d ∉ t.history.drop s.history.length := by
  obtain ⟨ev, ht, hev⟩ := h
  rw [ht, List.drop_left]
  exact hev o st d

/-- The one return of a step that releases is the one of its release. -/
theorem NoReturn.ret_of_release {s u : State} (h : NoReturn s u) {o : Option Caller} {st st' : Status}
    {d d' : RetData} (hm : .ret o st d ∈ (release st' d' u).history.drop s.history.length) :
    o = u.owner ∧ st = st' ∧ d = d' := by
  obtain ⟨ev, hu, hev⟩ := h
  rw [release_history, hu, List.append_assoc, List.drop_left, List.mem_append, List.mem_singleton] at hm
  simpa using hm.resolve_left (hev o st d)

theorem loadExchange_noReturn (p : Bits) (n k : Nat) (w : Option Nat) (s : State) :
    NoReturn s (loadExchange p n k w s) :=
  .event rfl nofun

theorem emitProgress_noReturn (s : State) : NoReturn s (emitProgress s) := .event rfl nofun

theorem latch_grant_noReturn (cmd : Command) (i : Nat) (c : Caller) (s : State) :
    NoReturn s (latch cmd (grant i c s)) :=
  .event (e := .grant c) (by simp) nofun

theorem endTx_noReturn (ans : List (Option Bool)) (s : State) : NoReturn s (endTx ans s) := by
  by_cases hn : 0 < s.eng.rxn
  · rw [endTx_sampling hn]; exact .silent rfl
  · rw [endTx_done (by omega)]; exact .event rfl nofun

theorem receiveFrame_noReturn {s t : State} (h : receiveFrame s = .next t) : NoReturn s t := by
  obtain ⟨-, ans, p, -, rfl⟩ := receiveFrame_endTx h
  exact endTx_noReturn ans { s with env := { s.env with peer := p } }

theorem breakExchange_noReturn {o : XchgOutcome} {j : Nat} {s t : State} (h : breakExchange o j s = .next t) :
    NoReturn s t := by
  obtain ⟨-, rfl⟩ | ⟨-, p, -, rfl⟩ := breakExchange_next h
  · exact .silent rfl
  · exact .event rfl nofun

/-! The returns of a granted command -/

/-- The returns a command `cmd` granted in `s` can make at once, in the order of its checks: outside Ready, or else with
operands out of range or the stored widths (R170, R255, R257). -/
inductive AtOnce (s : State) (cmd : Command) : Status → RetData → Prop
  | notReady (hr : isReady s = false) : AtOnce s cmd .notInitialized .nothing
  | outOfRange (hr : isReady s = true) : AtOnce s cmd .outOfRange .nothing
  | widths {aw dw : Nat} (hcmd : cmd = .sizeqCmd) (hr : isReady s = true) (haw : s.aw = some aw)
      (hdw : s.dw = some dw) : AtOnce s cmd .ok (.widths aw dw)

/-- A granted command returns at once or starts its first exchange. -/
theorem exec_command_next {cmd : Command} {s t : State} (h : exec cmd.toInstr s = .next t) :
    granted s = true ∧
      ((∃ st d, AtOnce s cmd st d ∧ t = release st d (latch cmd s)) ∨
        ∃ regs p n k w, t = loadExchange p n k w { s with cmd := regs }) := by
  cases cmd with
  | initCmd =>
    obtain ⟨hg, -, hs⟩ := execInit_next h
    obtain ⟨-, ht⟩ := startSize_next hs
    exact ⟨hg, .inr ⟨_, _, _, _, _, ht⟩⟩
  | sizeqCmd =>
    obtain ⟨hg, ⟨hr, ht⟩ | ⟨hr, aw, dw, haw, hdw, ht⟩⟩ := execSizeq_next h
    · exact ⟨hg, .inl ⟨_, _, .notReady hr, ht⟩⟩
    · exact ⟨hg, .inl ⟨_, _, .widths rfl hr haw hdw, ht⟩⟩
  | readCmd a n =>
    obtain ⟨hg, ⟨hr, ht⟩ | ⟨hr, aw, dw, -, -, ⟨-, ht⟩ | ⟨-, q, rest, -, hs⟩⟩⟩ := execRead_next h
    · exact ⟨hg, .inl ⟨_, _, .notReady hr, ht⟩⟩
    · exact ⟨hg, .inl ⟨_, _, .outOfRange hr, ht⟩⟩
    · obtain ⟨-, f, -, ht⟩ := startRead_next hs
      exact ⟨hg, .inr ⟨_, _, _, _, _, ht⟩⟩
  | writeCmd a ws =>
    obtain ⟨hg, ⟨hr, ht⟩ | ⟨hr, aw, dw, -, -, ⟨-, ht⟩ | ⟨-, q, rest, -, hs⟩⟩⟩ := execWrite_next h
    · exact ⟨hg, .inl ⟨_, _, .notReady hr, ht⟩⟩
    · exact ⟨hg, .inl ⟨_, _, .outOfRange hr, ht⟩⟩
    · obtain ⟨-, f, -, ht⟩ := startWrite_next hs
      exact ⟨hg, .inr ⟨_, _, _, _, _, ht⟩⟩

/-! The end of a command in progress -/

/-- `s` with a sub-transfer of `n` words counted, of which `words` came in (R181, R201 step 5e). -/
def subCounted (n : Nat) (words : List Nat) (s : State) : State :=
  { s with cmd := { s.cmd with rq := s.cmd.rq ++ words, doneWords := s.cmd.doneWords + n } }

/-- The command in progress in `s` ends with this status and data, released in the last state (R164 to R167, R188,
R190, R207, R240). -/
inductive Ends (s : State) : Status → RetData → State → Prop
  | failed {st : Status} (hst : st = .transportError ∨ st = .cancelled) : Ends s st .nothing s
  | cancelled : Ends s .cancelled .nothing (emitProgress s)
  | dead (aw dw : Nat) (hop : s.cmd.op = some .initCmd) :
      Ends s .configurationError .nothing { s with lc := .dead, cmd := { s.cmd with rq := [aw, dw] } }
  | ready (aw dw : Nat) (hop : s.cmd.op = some .initCmd) :
      Ends s .ok .nothing
        { s with lc := .ready, aw := some aw, dw := some dw, cmd := { s.cmd with rq := [aw, dw] } }
  | read {r : Bits} {p : List (Nat × Nat)} {q : Nat × Nat} (hop : s.cmd.op = some .readCmd)
      (ho : s.eng.outcome = some (.ok r)) (hp : currentPlan s = some p) (hq : p[s.cmd.ki]? = some q)
      (hlast : p.length ≤ s.cmd.ki + 1) :
      Ends s .ok (.words (s.cmd.rq ++ s.eng.xq)) (subCounted q.2 s.eng.xq s)
  | write (n : Nat) (hop : s.cmd.op = some .writeCmd) : Ends s .ok .nothing (subCounted n [] s)

/-- Up to its release the end of a command changes no owner and records no return. -/
theorem Ends.before_release {s u : State} {st : Status} {d : RetData} (h : Ends s st d u) :
    u.owner = s.owner ∧ NoReturn s u := by
  cases h with
  | cancelled => exact ⟨rfl, emitProgress_noReturn s⟩
  | failed | dead | ready | read | write => exact ⟨rfl, .silent rfl⟩

/-- A step of the command in progress returns nothing, or is its end. -/
def EndsOrGoesOn (s t : State) : Prop :=
  NoReturn s t ∨ ∃ st d u, Ends s st d u ∧ t = release st d u

theorem finishInit_ends {s : State} (hop : s.cmd.op = some .initCmd) : EndsOrGoesOn s (finishInit s) := by
  obtain ⟨aw, dw, -, -, ht⟩ | ⟨aw, dw, -, -, -, ht⟩ | ⟨-, ht⟩ := finishInit_cases s
  · exact .inr ⟨_, _, _, .dead aw dw hop, ht⟩
  · exact .inr ⟨_, _, _, .ready aw dw hop, ht⟩
  · exact .inr ⟨_, _, _, .failed (.inl rfl), ht⟩

/-- A sub-transfer that is not the last is counted, the last one is returned (R181, R201 steps 5e, 6). -/
theorem finishTransfer_cases {isRead : Bool} {s t : State} (h : finishTransfer isRead s = .next t) :
    ∃ p q, currentPlan s = some p ∧ p[s.cmd.ki]? = some q ∧
      (NoReturn s t ∨ (p.length ≤ s.cmd.ki + 1 ∧
        t = release .ok (if isRead then .words (s.cmd.rq ++ s.eng.xq) else .nothing)
          (subCounted q.2 (if isRead then s.eng.xq else []) s))) := by
  obtain ⟨p, q, hp, hq, rfl⟩ := finishTransfer_next h
  refine ⟨p, q, hp, hq, ?_⟩
  by_cases hmore : s.cmd.ki + 1 < p.length
  · simp only [finishSub, if_pos hmore]
    exact .inl (.silent rfl)
  · simp only [finishSub, if_neg hmore]
    exact .inr ⟨Nat.le_of_not_lt hmore, by cases isRead <;> rfl⟩

theorem collect_ends {o : XchgOutcome} {s t : State} (ho : s.eng.outcome = some o) (h : collect o s = .next t) :
    EndsOrGoesOn s t := by
  obtain ⟨-, ht⟩ | ⟨-, ht⟩ | ⟨r, -, hop, rfl⟩ | ⟨r, rfl, hop, ht⟩ | ⟨r, -, hop, ht⟩ := collect_next h
  · exact .inr ⟨_, _, _, .failed (.inl rfl), ht⟩
  · exact .inr ⟨_, _, _, .failed (.inr rfl), ht⟩
  · exact finishInit_ends hop
  · obtain ⟨p, q, hp, hq, hmore | ⟨hlast, ht⟩⟩ := finishTransfer_cases ht
    · exact .inl hmore
    · exact .inr ⟨_, _, _, .read hop ho hp hq hlast, ht⟩
  · obtain ⟨p, q, -, -, hmore | ⟨-, ht⟩⟩ := finishTransfer_cases ht
    · exact .inl hmore
    · exact .inr ⟨_, _, _, .write q.2 hop, ht⟩

theorem betweenChunks_ends {b : Bool} {s t : State} (h : betweenChunks b s = .next t) : EndsOrGoesOn s t := by
  obtain ⟨-, ht⟩ | ⟨-, hs⟩ := betweenChunks_next h
  · exact .inr ⟨_, _, _, .cancelled, ht⟩
  · refine .inl ((emitProgress_noReturn s).trans ?_)
    obtain ⟨p, aw, dw, q, -, -, -, -, ⟨-, hs⟩ | ⟨-, hs⟩⟩ := startCurrent_next hs
    · obtain ⟨-, f, -, rfl⟩ := startRead_next hs
      exact loadExchange_noReturn _ _ _ _ _
    · obtain ⟨-, f, -, rfl⟩ := startWrite_next hs
      exact loadExchange_noReturn _ _ _ _ _

/-! Every move -/

/-- A move on `s` releases a command from `u` with this status and data: in the step of its grant, or at the end of the
command in progress. -/
inductive Releases (s : State) : Status → RetData → State → Prop
  | atOnce {i : Nat} {c : Caller} {cmd : Command} {st : Status} {d : RetData} (hfree : s.busy = false)
      (hg : granted (grant i c s) = true) (h : AtOnce (grant i c s) cmd st d) :
      Releases s st d (latch cmd (grant i c s))
  | ends {st : Status} {d : RetData} {u : State} (hbusy : s.busy = true) (h : Ends s st d u) : Releases s st d u

/-- A move returns nothing, or does one release. -/
def ReleasesOrNot (s t : State) : Prop :=
  NoReturn s t ∨ ∃ st d u, Releases s st d u ∧ t = release st d u

theorem EndsOrGoesOn.releasesOrNot {s t : State} (h : EndsOrGoesOn s t) (hbusy : s.busy = true) :
    ReleasesOrNot s t :=
  h.imp_right fun ⟨st, d, u, hends, ht⟩ => ⟨st, d, u, .ends hbusy hends, ht⟩

theorem idleStep_releasesOrNot {x : Inputs} {s t : State} (h : idleStep x s = .next t) : ReleasesOrNot s t := by
  obtain ⟨hb, o, ho, hs⟩ | ⟨hb, -, hs⟩ | ⟨hfree, i, c, cmd, -, hs⟩ | ⟨-, -, rfl⟩ := idleStep_next h
  · exact (collect_ends ho hs).releasesOrNot hb
  · exact (betweenChunks_ends hs).releasesOrNot hb
  · obtain ⟨hg, ⟨st, d, hret, ht⟩ | ⟨regs, p, n, k, w, rfl⟩⟩ := exec_command_next hs
    · exact .inr ⟨_, _, _, .atOnce hfree hg hret, ht⟩
    · have hgrant : NoReturn s { grant i c s with cmd := regs } := .event (e := .grant c) rfl nofun
      exact .inl (hgrant.trans (loadExchange_noReturn _ _ _ _ _))
  · exact .inl (.silent rfl)

theorem blockStep_releasesOrNot {x : Inputs} {s t : State} (h : blockStep x s = .next t) : ReleasesOrNot s t := by
  obtain ⟨-, -, rfl⟩ | ⟨-, -, hs⟩ | ⟨-, -, rfl⟩ | ⟨-, -, rfl⟩ | ⟨-, hs⟩ := blockStep_next h
  · exact .inl (.silent rfl)
  · exact .inl (receiveFrame_noReturn hs)
  · exact .inl (.silent rfl)
  · exact .inl (.event rfl nofun)
  · exact idleStep_releasesOrNot hs

/-- Only a tick of an idle engine returns a command. -/
theorem stepMove_releasesOrNot {m : Move} {s t : State} (h : stepMove m s = .next t) : ReleasesOrNot s t := by
  cases m with
  | tick x => exact blockStep_releasesOrNot h
  | call c cmd => obtain ⟨-, rfl⟩ := present_next h; exact .inl (.event rfl nofun)
  | linkFail j | linkAbort j => exact .inl (breakExchange_noReturn h)
  | reset => obtain ⟨-, -, rfl⟩ := resetBlock_next h; exact .inl (.silent rfl)
  | silence => cases h; exact .inl (.silent rfl)
  | evaluate p => obtain ⟨v, rfl⟩ := exec_primitive_next h; exact .inl (.silent rfl)

theorem Releases.noReturn {s u : State} {st : Status} {d : RetData} (h : Releases s st d u) : NoReturn s u := by
  cases h with
  | atOnce => exact latch_grant_noReturn _ _ _ s
  | ends hbusy h => exact h.before_release.2

/-- A return recorded by a move is that of its one release. -/
theorem stepMove_returns {m : Move} {s t : State} {o : Option Caller} {st : Status} {d : RetData}
    (h : stepMove m s = .next t) (hret : .ret o st d ∈ t.history.drop s.history.length) :
    ∃ u, Releases s st d u ∧ o = u.owner ∧ t = release st d u := by
  obtain hnone | ⟨st', d', u, hu, rfl⟩ := stepMove_releasesOrNot h
  · exact absurd hret (hnone.not_mem o st d)
  · obtain ⟨ho, rfl, rfl⟩ := hu.noReturn.ret_of_release hret
    exact ⟨u, hu, ho, rfl⟩

/-! Failed validation -/

/-- A granted command that returns in the same step changes its registers, the exclusion, the status, the `ret` port and
the history only (R256, R272). -/
theorem release_latch_granted {s : State} (hg : granted s = true) (cmd : Command) (st : Status) (d : RetData) :
    release st d (latch cmd s) = returnedAtOnce s (latch cmd s).cmd st d := by
  rw [release_granted (s := latch cmd s) (by simpa using hg), latch_eq_withCmd]
  rfl

/-- Settles O57: a granted command that starts its exchange stays busy; and of the releases only one in the step of the
grant has one of the two statuses. -/
theorem failedValidationSendsNothing : Obligations.FailedValidationSendsNothing := by
  refine ⟨fun s t cmd hg hexec hfree => ?_, fun s t o st d hstep hret hst => ?_⟩
  · obtain ⟨-, ⟨st, d, -, rfl⟩ | ⟨regs, p, n, k, w, rfl⟩⟩ := exec_command_next hexec
    · rw [release_latch_granted hg]
      exact ⟨st, d, rfl, rfl, rfl, rfl⟩
    · obtain ⟨hb, -⟩ := (granted_iff s).1 hg
      cases hb.symm.trans hfree
  · obtain ⟨script, draws, hu⟩ := takeMove_frame s
    rw [step_eq, hu] at hstep
    obtain ⟨u, hrel, -, rfl⟩ := stepMove_returns hstep hret
    cases hrel with
    | @atOnce i c cmd _ _ hfree hg h =>
      have hnothing : d = .nothing := by
        cases h with
        | notReady | outOfRange => rfl
        | widths => simp at hst
      subst hnothing
      rw [release_latch_granted hg]
      exact ⟨hfree, rfl, rfl, c, List.append_assoc _ _ _⟩
    | ends hbusy h =>
      cases h with
      | failed hfailed => obtain rfl | rfl := hfailed <;> simp at hst
      | cancelled | dead | ready | read | write => simp at hst

end Sys2Proof.Proofs
end

section
/-! The state after a return, by its status (spec/60_exceptions.md R262, R263, R272). -/

namespace Sys2Proof.Proofs

open Machine Laws

/-- What a return with this status and data leaves in `t` of a command granted or in progress in `s`: one clause for the
failures that keep the lifecycle, one for `ConfigurationError`, and two for `OK`. -/
inductive Leaves (s t : State) : Status → RetData → Prop
  | failure {st : Status} (hok : st ≠ .ok) (hconf : st ≠ .configurationError)
      (hsame : t.lc = s.lc ∧ t.aw = s.aw ∧ t.dw = s.dw)
      (hnot : st = .notInitialized → t.lc ≠ .ready ∧ t.aw = none ∧ t.dw = none) : Leaves s t st .nothing
  | dead (hl : s.lc = .uninitialized) (hdead : t.lc = .dead ∧ t.aw = none ∧ t.dw = none) :
      Leaves s t .configurationError .nothing
  | initialized (hop : t.cmd.op = some .initCmd) (hl : s.lc = .uninitialized)
      (hready : t.lc = .ready ∧ t.aw.isSome = true ∧ t.dw.isSome = true) : Leaves s t .ok .nothing
  | served {d : RetData} (hl : s.lc = .ready) (hsame : t.lc = s.lc ∧ t.aw = s.aw ∧ t.dw = s.dw)
      (hd : (t.cmd.op = some .sizeqCmd ∧ ∃ aw dw, t.aw = some aw ∧ t.dw = some dw ∧ d = .widths aw dw) ∨
        (t.cmd.op = some .readCmd ∧ ∃ ws, d = .words ws ∧ t.cmd.count = some ws.length) ∨
        (t.cmd.op = some .writeCmd ∧ d = .nothing)) : Leaves s t .ok d

/-! A return in the step of the grant -/

theorem AtOnce.leaves {s : State} {i : Nat} {c : Caller} {cmd : Command} {st : Status} {d : RetData}
    (h : AtOnce (grant i c s) cmd st d) (g : Ground s) :
    Leaves s (release st d (latch cmd (grant i c s))) st d := by
  cases h with
  | notReady hr =>
    have hl : s.lc ≠ .ready := by simpa [isReady] using hr
    obtain ⟨haw, hdw⟩ := (lifecycleOk_not_ready hl).1 g.lifecycle
    exact .failure nofun nofun (by simp) fun _ => by simp [hl, haw, hdw]
  | outOfRange hr => exact .failure nofun nofun (by simp) nofun
  | @widths aw dw hcmd hr haw hdw =>
    subst hcmd
    exact .served (by simpa [isReady] using hr) ⟨rfl, rfl, rfl⟩ (.inl ⟨rfl, aw, dw, haw, hdw, rfl⟩)

/-! The end of a command in progress -/

/-- An `Ok` outcome is that of the current exchange, with every bit sampled (R136). -/
theorem Stage.exchangeOk_of_ok {s : State} (h : Stage s) (hx : Exclusion s) {r : Bits}
    (ho : s.eng.outcome = some (.ok r)) : exchangeOk s = true ∧ s.eng.rxn = 0 := by
  cases h with
  | between _ hnone => simp [ho] at hnone
  | ended _ _ hok hn => exact ⟨hok, hn⟩
  | broken _ o ho' hf => exact absurd (Option.some.inj (ho'.symm.trans ho)) (hf r)
  | running hp => cases (hx.running hp).symm.trans ho

/-- The exchange of a READ sub-transfer brings its words (R186, R189). -/
theorem readExchange_words {s : State} {p : List (Nat × Nat)} {q : Nat × Nat} {dw : Nat}
    (hop : s.cmd.op = some .readCmd) (hp : currentPlan s = some p) (hdw : s.dw = some dw)
    (hq : p[s.cmd.ki]? = some q) (hx : exchangeOk s = true) (hn : s.eng.rxn = 0) : s.eng.xq.length = q.2 := by
  obtain ⟨i, bits, skip, wlen, hcur, he⟩ := (exchangeOk_iff s).1 hx
  rw [currentExchange_read hop hp hdw hq] at hcur
  cases hcur
  exact ExchangeAt.words_length (by rw [← Nat.succ_mul]; exact he) hn

/-- The words of the sub-transfers up to the last are those of the command (R231, R233). -/
theorem TransferAt.words_total {s : State} {p : List (Nat × Nat)} {n aw dw : Nat} {q : Nat × Nat}
    (h : TransferAt s p n aw dw) (hlegal : s.cfg.legal = true) (hq : p[s.cmd.ki]? = some q)
    (hlast : p.length ≤ s.cmd.ki + 1) : s.cmd.doneWords + q.2 = n := by
  have htotal : (p.map (·.2)).sum = n := by
    obtain ⟨a, n', -, hn', rfl⟩ := currentPlan_eq_some h.plan
    obtain rfl : n' = n := Option.some.inj (hn'.symm.trans h.count)
    exact plan_words (legal_chunkWords hlegal) a n'
  have htake : p.take (s.cmd.ki + 1) = p.take s.cmd.ki ++ [q] := by rw [List.take_add_one, hq]; rfl
  rw [List.take_of_length_le hlast] at htake
  calc s.cmd.doneWords + q.2
      = ((p.take s.cmd.ki ++ [q]).map (·.2)).sum := by simp [h.done]
    _ = n := by rw [← htake, htotal]

theorem Ends.leaves {s u : State} {st : Status} {d : RetData} (h : Ends s st d u) (g : Ground s)
    (hc : commandOk s = true) (hstage : Stage s) : Leaves s (release st d u) st d := by
  cases h with
  | failed hst => obtain rfl | rfl := hst <;> exact .failure nofun nofun ⟨rfl, rfl, rfl⟩ nofun
  | cancelled => exact .failure nofun nofun ⟨rfl, rfl, rfl⟩ nofun
  | dead aw dw hop =>
    have hl := (commandOk_init hop).1 hc
    obtain ⟨haw, hdw⟩ := (lifecycleOk_not_ready (by simp [hl])).1 g.lifecycle
    exact .dead hl ⟨rfl, haw, hdw⟩
  | ready aw dw hop => exact .initialized hop ((commandOk_init hop).1 hc) ⟨rfl, rfl, rfl⟩
  | @read r p q hop ho hp hq hlast =>
    obtain ⟨⟨p', n, aw, dw, hat⟩, hrq⟩ := (commandOk_read hop).1 hc
    obtain rfl : p = p' := Option.some.inj (hp.symm.trans hat.plan)
    obtain ⟨hx, hn⟩ := hstage.exchangeOk_of_ok g.exclusion ho
    have hwords : (s.cmd.rq ++ s.eng.xq).length = n := by
      rw [List.length_append, hrq, readExchange_words hop hp hat.dataWidth hq hx hn,
        hat.words_total g.legal hq hlast]
    exact .served hat.ready ⟨rfl, rfl, rfl⟩ (.inr (.inl ⟨hop, _, rfl, hat.count.trans (congrArg some hwords.symm)⟩))
  | write n hop =>
    obtain ⟨⟨p, n, aw, dw, hat⟩, -⟩ := (commandOk_write hop).1 hc
    exact .served hat.ready ⟨rfl, rfl, rfl⟩ (.inr (.inr ⟨hop, rfl⟩))

/-! Every return -/

/-- Under the invariant a release has an owner to return to, and leaves what its status says. -/
theorem Releases.leaves {s u : State} {st : Status} {d : RetData} (h : Releases s st d u) (hinv : inv s = true) :
    u.owner.isSome = true ∧ Leaves s (release st d u) st d := by
  obtain ⟨g, hcs⟩ := (inv_iff s).1 hinv
  cases h with
  | atOnce hfree hg h => exact ⟨by simp, h.leaves g⟩
  | ends hbusy h =>
    obtain ⟨hc, hstage⟩ := hcs hbusy
    obtain ⟨howner, -⟩ := h.before_release
    exact ⟨by rw [howner, ← g.exclusion.owned, hbusy], h.leaves g hc hstage⟩

/-- Settles O56: the release writes what every return writes, and the clauses of `Leaves` are those of the statuses. -/
theorem aReturnLeavesWhatItsStatusSays : Obligations.AReturnLeavesWhatItsStatusSays := by
  intro s t o st d hinv hstep hret
  obtain ⟨script, draws, hu⟩ := takeMove_frame s
  have hinv' := inv_takeMove hinv
  rw [hu] at hinv'
  rw [step_eq, hu] at hstep
  obtain ⟨u, hrel, rfl, rfl⟩ := stepMove_returns hstep hret
  obtain ⟨howner, hleaves⟩ := hrel.leaves hinv'
  refine ⟨rfl, rfl, rfl, rfl, rfl, howner, ?_⟩
  cases hleaves with
  | failure hok hconf hsame hnot =>
    exact ⟨fun _ => rfl, fun _ _ => hsame, hnot, fun h => absurd h hconf, fun h => absurd h hok⟩
  | dead hl hdead => exact ⟨fun _ => rfl, fun _ h => absurd rfl h, nofun, fun _ => ⟨hl, hdead⟩, nofun⟩
  | initialized hop hl hready =>
    obtain ⟨hlc, haw, hdw⟩ := hready
    exact ⟨fun h => absurd rfl h, fun h => absurd rfl h, nofun, nofun, fun _ => .inl ⟨hop, hl, hlc, haw, hdw, rfl⟩⟩
  | served hl hsame hd =>
    obtain ⟨hlc, haw, hdw⟩ := hsame
    exact ⟨fun h => absurd rfl h, fun h => absurd rfl h, nofun, nofun,
      fun _ => .inr ⟨hlc.trans hl, hl, haw, hdw, hd⟩⟩

end Sys2Proof.Proofs
end

section
/-! Calls, grants, reset and status codes (spec/60_exceptions.md R251, R255, R270 to R274, spec/70_reset_and_hazards.md
R290 to R292), and four frames of spec/95_test_vectors.md. -/

namespace Sys2Proof.Proofs

open Machine Laws

/-! Commands outside Ready -/

/-- Outside Ready every command but INITIALIZE returns before its operands are looked at (R255). -/
theorem exec_command_notReady {cmd : Command} {s : State} (hcmd : cmd ≠ .initCmd) (hg : granted s = true)
    (hl : s.lc ≠ .ready) :
    exec cmd.toInstr s = .next (returnedAtOnce s (latch cmd s).cmd .notInitialized .nothing) := by
  have hr : ¬isReady s = true := by simpa [isReady] using hl
  rw [← release_latch_granted hg]
  cases cmd with
  | initCmd => exact absurd rfl hcmd
  | sizeqCmd => exact (if_pos hg).trans (if_neg hr)
  | readCmd a n => exact (if_pos hg).trans (if_neg hr)
  | writeCmd a ws => exact (if_pos hg).trans (if_neg hr)

/-- Settles O29: the three commands return at once, and INITIALIZE starts its exchange, which writes no status. -/
theorem commandsOutsideReadyAreNotInitialized : Obligations.CommandsOutsideReadyAreNotInitialized := by
  intro s hg
  refine ⟨fun hl => ⟨?_, fun a n => ?_, fun a ws => ?_⟩, fun t hexec => ?_⟩
  · exact exec_command_notReady (cmd := .sizeqCmd) nofun hg hl
  · exact exec_command_notReady (cmd := .readCmd a n) nofun hg hl
  · exact exec_command_notReady (cmd := .writeCmd a ws) nofun hg hl
  · obtain ⟨-, -, hs⟩ := execInit_next hexec
    obtain ⟨-, rfl⟩ := startSize_next hs
    obtain ⟨hb, -⟩ := (granted_iff s).1 hg
    exact ⟨rfl, hb⟩

/-! Calls -/

theorem callerWaits_iff {c : Caller} {s : State} :
    callerWaits c s = true ↔ s.owner = some c ∨ ∃ p ∈ s.pending, p.1 = c := by
  simp only [callerWaits, Bool.or_eq_true, beq_iff_eq, List.any_eq_true]

/-- Settles O46: a call is refused exactly to a caller that waits. -/
theorem aPresentedCommandIsHeld : Obligations.APresentedCommandIsHeld := by
  intro s c cmd rest
  refine ⟨fun howner hpending => ?_, fun hwaits => ?_⟩
  · have hfree : ¬callerWaits c (withScript s rest) = true := fun h =>
      (callerWaits_iff.1 h).elim howner fun ⟨p, hp, hpc⟩ => hpending p hp hpc
    exact if_neg hfree
  · have hheld : callerWaits c (withScript s rest) = true := callerWaits_iff.2 hwaits
    exact if_pos hheld

/-! Grants -/

/-- A place in `PENDING` is picked by its own index (R270). -/
theorem pickPending_index {k : Nat} {c : Caller} {cmd : Command} {s : State} (h : s.pending[k]? = some (c, cmd)) :
    pickPending k s = some (k, c, cmd) := by
  obtain ⟨hlt, -⟩ := List.getElem?_eq_some_iff.1 h
  simp only [pickPending, Nat.mod_eq_of_lt hlt, h]

/-- A tick of an idle block grants what the input picks and runs it (R270). -/
theorem step_grant {s : State} {x : Inputs} {k : Nat} {c : Caller} {cmd : Command} (hb : s.busy = false)
    (hi : s.eng.ph = .idle) (hp : pickPending x.pick s = some (k, c, cmd)) (rest : List Move) :
    step (withScript s (.tick x :: rest)) = exec cmd.toInstr (grant k c (withScript s rest)) := by
  have hp : pickPending x.pick (withScript s rest) = some (k, c, cmd) := hp
  rw [step_cons]
  simp only [stepMove, blockStep, idleStep, withScript_eng, withScript_busy, hb, hi, hp, Bool.false_eq_true, if_false]

/-- Settles O48: the input that picks the command's place. -/
theorem anyPendingCommandCanBeGranted : Obligations.AnyPendingCommandCanBeGranted :=
  fun _ k _ _ rest hb hi hk => ⟨{ pick := k }, step_grant hb hi (pickPending_index hk) rest⟩

/-- Settles O51: a tick of an idle block is a grant, and the move of an evaluation is the primitive's meaning. -/
theorem aStepRunsTheCommandItGrants : Obligations.AStepRunsTheCommandItGrants :=
  fun _ _ _ _ _ _ rest => ⟨fun hb hi hp => step_grant hb hi hp rest, rfl⟩

/-! Reset -/

/-- Settles O59: reset constructs the framer anew, or is refused (R290, R291). -/
theorem resetIsReconstructionWhenIdle : Obligations.ResetIsReconstructionWhenIdle := by
  intro s rest
  have hreset : step (withScript s (.reset :: rest)) = resetBlock (withScript s rest) := rfl
  refine ⟨fun hb hp => ?_, fun hheld => ?_⟩
  · have hidle : ¬(s.busy || !s.pending.isEmpty) = true := by simp [hb, hp]
    exact hreset.trans (if_neg hidle)
  · have hbusy : (s.busy || !s.pending.isEmpty) = true := by simpa using hheld
    exact hreset.trans (if_pos hbusy)

/-! Status codes -/

/-- The code of a status gives the status back (R251). -/
theorem statusOfCode_statusCode (st : Status) : statusOfCode (statusCode st) = some st := by
  cases st <;> rfl

/-- Settles O60: the six codes are read off, and 6 and 7 are past the end of the taxonomy. -/
theorem statusCodesAreNumberedInTheTaxonomysOrder : Obligations.StatusCodesAreNumberedInTheTaxonomysOrder :=
  ⟨rfl, statusOfCode_statusCode, rfl, rfl⟩

/-! Frames written out -/

/-- Settles O4: the decoder reads each of the four frames. -/
theorem writtenOutFramesDecode : Obligations.WrittenOutFramesDecode := ⟨rfl, rfl, rfl, rfl⟩

end Sys2Proof.Proofs
end
